-- ==== Sys2Proof/Word.lean ====
section
/-! DEFINITION. The word types of the block (spec/00_scope.md R11, R12): every register is 32 bits, a pixel is one
byte, an operand field is 16 bits, a command word is 64 bits. -/

namespace Sys2Proof

/-- A register, and a 32-bit byte address (R11). -/
abbrev Word := BitVec 32

/-- A pixel, and the unit of the memory space (R11, R70). -/
abbrev Byte := BitVec 8

/-- An operand field A, B or C of a command word, and one element on the DATA port (R100, R103). -/
abbrev Half := BitVec 16

/-- A command word (R100). -/
abbrev Command := BitVec 64

end Sys2Proof
end

