-- ==== Sys2Proof/Syntax.lean ====
section
/-! DEFINITION. The abstract syntax of the 33 operations of spec/30_encoding.md R104, one constructor per row of
spec/opcode_table.json, operands in the order of R104's "operands" column. A signed operand (`s16`) is kept as the 16
bits of its field and read as two's complement where it is used (R101). -/

namespace Sys2Proof

/-- A DMA channel, and with it a shift register and a colour lane (R30, R71): channel 0 is the primary, channel 1 the
secondary. -/
inductive Channel where
  | primary
  | secondary
deriving DecidableEq, Repr

/-- The operation set VTC-ops 1.0 (R2, R104). -/
inductive Instr where
  /-- NOP, OP 0x00 (R242). -/
  | nop
  /-- BEGIN mode, OP 0x01 (R221). -/
  | beginMode (mode : Byte)
  /-- END, OP 0x02 (R223). -/
  | endMode
  /-- TWEAK shift_delta, num_delta, denom_delta, OP 0x03 (R150). -/
  | tweak (shiftDelta numDelta denomDelta : Half)
  /-- WAIT_VSYNC, OP 0x04 (R211). -/
  | waitVsync
  /-- WAIT_LINE n, OP 0x05 (R212). -/
  | waitLine (n : Half)
  /-- FRAME_SIZE, OP 0x06 (R128). -/
  | frameSize
  /-- ROW_POINTER y, OP 0x07 (R225). -/
  | rowPointer (y : Half)
  /-- GET_PIXEL x, y, OP 0x08 (R226). -/
  | getPixel (x y : Half)
  /-- SET_PIXEL x, y, v, OP 0x09 (R227). -/
  | setPixel (x y : Half) (v : Byte)
  /-- WRITE_ROW_NATIVE y, n, payload, OP 0x0A (R229). -/
  | writeRowNative (y n : Half) (src : List Byte)
  /-- WRITE_ROW_PAL8 y, n, payload, OP 0x0B (R230). -/
  | writeRowPal8 (y n : Half) (src : List Byte)
  /-- WRITE_ROW_RGB565 y, n, payload, OP 0x0C (R231). -/
  | writeRowRgb565 (y n : Half) (src : List Half)
  /-- FB_LOAD addr, OP 0x0D (R233). -/
  | fbLoad (addr : Word)
  /-- FB_STORE v, addr, OP 0x0E (R234). -/
  | fbStore (v : Byte) (addr : Word)
  /-- RDREG reg, OP 0x0F (R214). -/
  | rdreg (reg : Byte)
  /-- MODE_RESOLVE mode, OP 0x40 (R123). -/
  | modeResolve (mode : Byte)
  /-- CLK_PROGRAM target, OP 0x41 (R143). -/
  | clkProgram (target : Word)
  /-- PLL_LOCK, OP 0x42 (R147). -/
  | pllLock
  /-- DMA_CONFIGURE, OP 0x43 (R163). -/
  | dmaConfigure
  /-- DMA_ENABLE, OP 0x44 (R165). -/
  | dmaEnable
  /-- DMA_DISABLE, OP 0x45 (R166). -/
  | dmaDisable
  /-- DMA_REPROGRAM line_pointer, OP 0x46 (R167). -/
  | dmaReprogram (linePointer : Word)
  /-- DMA_BEAT c, OP 0x47 (R169). -/
  | dmaBeat (c : Channel)
  /-- SHIFT_OUT, OP 0x48 (R173). -/
  | shiftOut
  /-- TMR_STEP, OP 0x49 (R191). -/
  | tmrStep
  /-- LINE_TICK, OP 0x4A (R195). -/
  | lineTick
  /-- IRQ_MASK, OP 0x4B (R201). -/
  | irqMask
  /-- IRQ_UNMASK, OP 0x4C (R202). -/
  | irqUnmask
  /-- CACHE_FLUSH len, addr, OP 0x4D (R240). -/
  | cacheFlush (len : Half) (addr : Word)
  /-- FB_ALLOC, OP 0x4E (R237). -/
  | fbAlloc
  /-- FB_FREE, OP 0x4F (R238). -/
  | fbFree
  /-- CACHE_EVICT addr, OP 0x50 (R241). -/
  | cacheEvict (addr : Word)
deriving DecidableEq, Repr

end Sys2Proof
end

