-- ==== Sys2Proof/WellFormed.lean ====
section
/-! DEFINITION. Which terms of `Instr` are operations: a row writer's command word is followed by exactly `n = C`
payload elements (spec/30_encoding.md R103). Every other operand is well formed by its type. -/

namespace Sys2Proof

/-- R103: the payload of a row writer has exactly `n` elements. -/
def Instr.wellFormed : Instr → Bool
  | .nop => true
  | .beginMode _ => true
  | .endMode => true
  | .tweak _ _ _ => true
  | .waitVsync => true
  | .waitLine _ => true
  | .frameSize => true
  | .rowPointer _ => true
  | .getPixel _ _ => true
  | .setPixel _ _ _ => true
  | .writeRowNative _ n src => src.length == n.toNat
  | .writeRowPal8 _ n src => src.length == n.toNat
  | .writeRowRgb565 _ n src => src.length == n.toNat
  | .fbLoad _ => true
  | .fbStore _ _ => true
  | .rdreg _ => true
  | .modeResolve _ => true
  | .clkProgram _ => true
  | .pllLock => true
  | .dmaConfigure => true
  | .dmaEnable => true
  | .dmaDisable => true
  | .dmaReprogram _ => true
  | .dmaBeat _ => true
  | .shiftOut => true
  | .tmrStep => true
  | .lineTick => true
  | .irqMask => true
  | .irqUnmask => true
  | .cacheFlush _ _ => true
  | .fbAlloc => true
  | .fbFree => true
  | .cacheEvict _ => true

end Sys2Proof
end

