-- ==== Sys2Proof/Decode.lean ====
section
/-! DEFINITION. The 64-bit command word (spec/30_encoding.md R100 to R109): the decoder, total on any word and any
payload, which rejects by name; then the encoder; then the word the opcode table numbers. -/

namespace Sys2Proof

/-- Why a word is no operation (R103, R105, R106, R108). -/
inductive Reject where
  /-- The Z field is not zero (R100, R106). -/
  | zNotZero
  /-- OP 0x10 or 0x11, reserved for the audio collaborator (R108). -/
  | reservedForAudio
  /-- OP 0x12 to 0x3F (R105). -/
  | unassignedHost
  /-- OP 0x51 to 0x7F (R105). -/
  | unassignedInternal
  /-- OP 0x80 to 0xFF (R105). -/
  | reservedOpcode
  /-- An internal-class word presented on the CMD port (R106). -/
  | internalOnCmdPort
  /-- The DATA port holds fewer elements than C counts (R103). -/
  | payloadIncomplete
deriving DecidableEq, Repr

/-- R100: bits 63:56. -/
def fieldOp (w : Command) : Byte := w.extractLsb' 56 8
/-- R100: bits 55:48. -/
def fieldZ (w : Command) : Byte := w.extractLsb' 48 8
/-- R100: bits 47:32. -/
def fieldA (w : Command) : Half := w.extractLsb' 32 16
/-- R100: bits 31:16. -/
def fieldB (w : Command) : Half := w.extractLsb' 16 16
/-- R100: bits 15:0. -/
def fieldC (w : Command) : Half := w.extractLsb' 0 16
/-- R100: bits 31:0, "the same bits as {B, C}". -/
def fieldW (w : Command) : Word := w.extractLsb' 0 32

/-- R101: a `u8` operand is bits[7:0] of its field; the upper eight bits are ignored. -/
def lowByte (h : Half) : Byte := h.extractLsb' 0 8

/-- R101: the `u1` operand of DMA_BEAT is bit 0 of C. -/
def channelOf (c : Half) : Channel := if c.getLsbD 0 then .secondary else .primary

/-- R103: `n` elements of the payload, taken from the DATA port, and what is left on it. -/
def takePayload (n : Nat) (data : List Half) : Except Reject (List Half × List Half) :=
  if data.length < n then .error .payloadIncomplete else .ok (data.take n, data.drop n)

/-- Which rejection an unassigned OP falls under (R105, R108). -/
def rejectOp (op : Byte) : Reject :=
  if op.toNat < 0x12 then .reservedForAudio
  else if op.toNat < 0x40 then .unassignedHost
  else if op.toNat < 0x80 then .unassignedInternal
  else .reservedOpcode

/-- A row writer read from its word and the payload on the DATA port. A byte element uses the low eight lines of its
DATA element (notes/assumptions/5.md). -/
def decodeRow {α : Type} (make : Half → Half → List α → Instr) (element : Half → α) (w : Command) (data : List Half) :
    Except Reject (Instr × List Half) :=
  match takePayload (fieldC w).toNat data with
  | .ok (src, rest) => .ok (make (fieldB w) (fieldC w) (src.map element), rest)
  | .error r => .error r

/-- R100 to R105: the operation a command word and the DATA port stand for, and what is left on the DATA port. -/
def decode (w : Command) (data : List Half) : Except Reject (Instr × List Half) :=
  if fieldZ w ≠ 0 then .error .zNotZero
  else
    match (fieldOp w).toNat with
    | 0x00 => .ok (.nop, data)
    | 0x01 => .ok (.beginMode (lowByte (fieldC w)), data)
    | 0x02 => .ok (.endMode, data)
    | 0x03 => .ok (.tweak (fieldA w) (fieldB w) (fieldC w), data)
    | 0x04 => .ok (.waitVsync, data)
    | 0x05 => .ok (.waitLine (fieldC w), data)
    | 0x06 => .ok (.frameSize, data)
    | 0x07 => .ok (.rowPointer (fieldB w), data)
    | 0x08 => .ok (.getPixel (fieldA w) (fieldB w), data)
    | 0x09 => .ok (.setPixel (fieldA w) (fieldB w) (lowByte (fieldC w)), data)
    | 0x0A => decodeRow .writeRowNative lowByte w data
    | 0x0B => decodeRow .writeRowPal8 lowByte w data
    | 0x0C => decodeRow .writeRowRgb565 id w data
    | 0x0D => .ok (.fbLoad (fieldW w), data)
    | 0x0E => .ok (.fbStore (lowByte (fieldA w)) (fieldW w), data)
    | 0x0F => .ok (.rdreg (lowByte (fieldC w)), data)
    | 0x40 => .ok (.modeResolve (lowByte (fieldC w)), data)
    | 0x41 => .ok (.clkProgram (fieldW w), data)
    | 0x42 => .ok (.pllLock, data)
    | 0x43 => .ok (.dmaConfigure, data)
    | 0x44 => .ok (.dmaEnable, data)
    | 0x45 => .ok (.dmaDisable, data)
    | 0x46 => .ok (.dmaReprogram (fieldW w), data)
    | 0x47 => .ok (.dmaBeat (channelOf (fieldC w)), data)
    | 0x48 => .ok (.shiftOut, data)
    | 0x49 => .ok (.tmrStep, data)
    | 0x4A => .ok (.lineTick, data)
    | 0x4B => .ok (.irqMask, data)
    | 0x4C => .ok (.irqUnmask, data)
    | 0x4D => .ok (.cacheFlush (fieldA w) (fieldW w), data)
    | 0x4E => .ok (.fbAlloc, data)
    | 0x4F => .ok (.fbFree, data)
    | 0x50 => .ok (.cacheEvict (fieldW w), data)
    | _ => .error (rejectOp (fieldOp w))

/-- R104, R105: OP 0x00 to 0x3F is the host class. -/
def hostClassWord (w : Command) : Bool := decide ((fieldOp w).toNat < 0x40)

/-- R105: OP 0x40 to 0x7F is the internal class. -/
def internalClassWord (w : Command) : Bool := decide (0x40 ≤ (fieldOp w).toNat ∧ (fieldOp w).toNat < 0x80)

/-- R106: what the CMD port accepts: the host class only. -/
def decodeHost (w : Command) (data : List Half) : Except Reject (Instr × List Half) :=
  if internalClassWord w then .error .internalOnCmdPort else decode w data

/-- What the step port of the block's own agents accepts: the internal class only (R104, R106). -/
def decodeInternal (w : Command) : Except Reject Instr :=
  if internalClassWord w then (decode w []).map Prod.fst else .error (rejectOp (fieldOp w))

/-! ## The encoder -/

/-- R104: the OP column. -/
def opcode : Instr → Byte
  | .nop => 0x00
  | .beginMode _ => 0x01
  | .endMode => 0x02
  | .tweak _ _ _ => 0x03
  | .waitVsync => 0x04
  | .waitLine _ => 0x05
  | .frameSize => 0x06
  | .rowPointer _ => 0x07
  | .getPixel _ _ => 0x08
  | .setPixel _ _ _ => 0x09
  | .writeRowNative _ _ _ => 0x0A
  | .writeRowPal8 _ _ _ => 0x0B
  | .writeRowRgb565 _ _ _ => 0x0C
  | .fbLoad _ => 0x0D
  | .fbStore _ _ => 0x0E
  | .rdreg _ => 0x0F
  | .modeResolve _ => 0x40
  | .clkProgram _ => 0x41
  | .pllLock => 0x42
  | .dmaConfigure => 0x43
  | .dmaEnable => 0x44
  | .dmaDisable => 0x45
  | .dmaReprogram _ => 0x46
  | .dmaBeat _ => 0x47
  | .shiftOut => 0x48
  | .tmrStep => 0x49
  | .lineTick => 0x4A
  | .irqMask => 0x4B
  | .irqUnmask => 0x4C
  | .cacheFlush _ _ => 0x4D
  | .fbAlloc => 0x4E
  | .fbFree => 0x4F
  | .cacheEvict _ => 0x50

/-- R104: the "class" column. -/
def Instr.isHost (i : Instr) : Bool := decide ((opcode i).toNat < 0x40)

/-- R100: {OP, Z = 0, A, W}. -/
def layoutAW (op : Byte) (a : Half) (w : Word) : Command := op ++ (0 : Byte) ++ a ++ w

/-- R100: {OP, Z = 0, A, B, C}. -/
def layoutABC (op : Byte) (a b c : Half) : Command := layoutAW op a (b ++ c)

/-- R101: a byte operand in the low half of its field, the upper half written as zero. -/
def byteField (v : Byte) : Half := (0 : Byte) ++ v

/-- R30, R71: the channel's number. -/
def channelBit : Channel → Half
  | .primary => 0
  | .secondary => 1

/-- The command word of an operation: its fields from R104; unused fields zero (R101). -/
def encodeWord (i : Instr) : Command :=
  match i with
  | .beginMode mode => layoutABC (opcode i) 0 0 (byteField mode)
  | .tweak a b c => layoutABC (opcode i) a b c
  | .waitLine n => layoutABC (opcode i) 0 0 n
  | .rowPointer y => layoutABC (opcode i) 0 y 0
  | .getPixel x y => layoutABC (opcode i) x y 0
  | .setPixel x y v => layoutABC (opcode i) x y (byteField v)
  | .writeRowNative y n _ => layoutABC (opcode i) 0 y n
  | .writeRowPal8 y n _ => layoutABC (opcode i) 0 y n
  | .writeRowRgb565 y n _ => layoutABC (opcode i) 0 y n
  | .fbLoad addr => layoutAW (opcode i) 0 addr
  | .fbStore v addr => layoutAW (opcode i) (byteField v) addr
  | .rdreg reg => layoutABC (opcode i) 0 0 (byteField reg)
  | .modeResolve mode => layoutABC (opcode i) 0 0 (byteField mode)
  | .clkProgram target => layoutAW (opcode i) 0 target
  | .dmaReprogram p => layoutAW (opcode i) 0 p
  | .dmaBeat c => layoutABC (opcode i) 0 0 (channelBit c)
  | .cacheFlush len addr => layoutAW (opcode i) len addr
  | .cacheEvict addr => layoutAW (opcode i) 0 addr
  | .nop | .endMode | .waitVsync | .frameSize | .pllLock | .dmaConfigure | .dmaEnable | .dmaDisable | .shiftOut
  | .tmrStep | .lineTick | .irqMask | .irqUnmask | .fbAlloc | .fbFree => layoutABC (opcode i) 0 0 0

/-- R103: what follows the command word on the DATA port. -/
def encodePayload : Instr → List Half
  | .writeRowNative _ _ src => src.map byteField
  | .writeRowPal8 _ _ src => src.map byteField
  | .writeRowRgb565 _ _ src => src
  | .nop | .beginMode _ | .endMode | .tweak _ _ _ | .waitVsync | .waitLine _ | .frameSize | .rowPointer _
  | .getPixel _ _ | .setPixel _ _ _ | .fbLoad _ | .fbStore _ _ | .rdreg _ | .modeResolve _ | .clkProgram _ | .pllLock
  | .dmaConfigure | .dmaEnable | .dmaDisable | .dmaReprogram _ | .dmaBeat _ | .shiftOut | .tmrStep | .lineTick
  | .irqMask | .irqUnmask | .cacheFlush _ _ | .fbAlloc | .fbFree | .cacheEvict _ => []

/-- The words of an operation: its command word, and its payload on the DATA port. -/
def encode (i : Instr) : Command × List Half := (encodeWord i, encodePayload i)

/-! ## The opcode table's words -/

/-- The width in bits of one payload element, by OP (R103); 0 for an operation without a payload. -/
def elementBits (w : Command) : Nat :=
  match (fieldOp w).toNat with
  | 0x0A => 8
  | 0x0B => 8
  | 0x0C => 16
  | _ => 0

/-- The `n` payload elements of `bits` bits each, numbered on from the command word: the first lowest. -/
def tableElements (bits : Nat) : Nat → Nat → List Half
  | 0, _ => []
  | n + 1, rest => BitVec.ofNat 16 (rest % 2 ^ bits) :: tableElements bits n (rest / 2 ^ bits)

/-- The command word of a numbered instruction of `nbits` bits. -/
def tableWord (nbits w : Nat) : Command := BitVec.ofNat 64 (w % 2 ^ nbits)

/-- Its payload: the bits above the command word, zeros above `nbits`. -/
def tableData (nbits w : Nat) : List Half :=
  let bits := elementBits (tableWord nbits w)
  if bits = 0 then [] else tableElements bits (fieldC (tableWord nbits w)).toNat (w % 2 ^ nbits / 2 ^ 64)

/-- The instruction the decoder reads from the numbered bits of an opcode-table row. -/
def decodeTableWord (nbits w : Nat) : Option Instr :=
  match decode (tableWord nbits w) (tableData nbits w) with
  | .ok (i, _) => some i
  | .error _ => none

end Sys2Proof
end

