-- ==== Sys2Proof/Config.lean ====
section
/-! DEFINITION. What an implementation fixes (the parameters `P_*` of spec/00_scope.md R10) and the free values (the
draws of R9). Both stand in one structure, so that the meanings can be read, and tested, for any configuration; the
machine of Machine/Dispatch.lean runs with `Config.chip`, of which nothing is known but that it is legal. -/

namespace Sys2Proof

/-- A ModeEntry of the mode catalogue (spec/40_mode_resolver.md R121): non-negative integers, of any size; `ld` and
`combine` are 0 or 1. -/
structure ModeEntry where
  width : Nat
  height : Nat
  ld : Bool
  combine : Bool
  clkdivN : Nat
  clkdivD : Nat
  shift0 : Nat
  totalLines : Nat
  topBlank : Nat
deriving DecidableEq, Repr, Inhabited

/-- The parameters `P_*` of R10, in its order, then the draws of R9. -/
structure Config where
  /-- `P_F_REF`, in Hz. -/
  fRef : Nat
  /-- `P_DIV_MIN`. -/
  divMin : Nat
  /-- `P_DIV_MAX`. -/
  divMax : Nat
  /-- `P_DENOM0`. -/
  denom0 : Nat
  /-- `P_POST_DIV`. -/
  postDiv : Nat
  /-- `P_LOCK_TIMEOUT`, in polls. -/
  lockTimeout : Nat
  /-- `P_CLK_TOL` as a fraction: "a test property only; no rule reads it" (R10). -/
  clkTolNum : Nat
  /-- The denominator of `P_CLK_TOL`. -/
  clkTolDen : Nat
  /-- `P_PIX_REF_FREQ`, in Hz. -/
  pixRefFreq : Nat
  /-- `P_BACKPORCH_PIX`. -/
  backporchPix : Nat
  /-- `P_FRONTPORCH_PIX`. -/
  frontporchPix : Nat
  /-- `P_MODE_TABLE`. -/
  modeTable : Byte → Option ModeEntry
  /-- `P_SKEW(m)`, in pixel clocks, by mode id. -/
  skew : Nat → Nat
  /-- `P_SHIFT_MAX`, in bytes. -/
  shiftMax : Nat
  /-- `P_FB_PAD`, in bytes. -/
  fbPad : Nat
  /-- `P_FB_ALIGN`, in bytes. -/
  fbAlign : Nat
  /-- `P_HS_LOW`, in timer clocks. -/
  hsLow : Nat
  /-- `P_HS_REST`, in timer clocks. -/
  hsRest : Nat
  /-- `P_VSYNC_ACTIVE`: the level of the VSYNC pin when vertical sync is asserted. -/
  vsyncActive : Bool
  /-- `P_PAL`. -/
  pal : Byte → Byte
  /-- `P_CONV565`. -/
  conv565 : Half → Byte
  /-- The draw `lock_ok` (R9), by draw number: whether the PLL locks within the polls of one CLK_PROGRAM. -/
  lockOk : Nat → Bool
  /-- The draw `alloc` (R9), by draw number, before its law is imposed (`Config.allocDraw`). -/
  alloc : Nat → Option Nat
  /-- The value of a DMA read outside the allocation (R82), by draw number. -/
  strayByte : Nat → Byte
  /-- The colour of one pixel of a corrupted line (R173, R291), by draw number. -/
  corruptColour : Nat → Byte
  /-- The unspecified contents of `MEM` (R73): by allocation epoch and address. -/
  memInit : Nat → Nat → Byte
  /-- DESIGN CHOICE (notes/assumptions/3.md): what a 32-bit register holds after a number of R121 or R10 that does not
  fit it is written to it, before the register's own laws bound it (`Config.held`); by register number and number. The
  spec states no value there. -/
  oversize : Byte → Nat → Word
deriving Inhabited

/-- R122: what every conforming `P_MODE_TABLE` holds under mode id 0; `shift0` and `top_blank` are open. -/
def ModeEntry.reference (shift0 topBlank : Nat) : ModeEntry :=
  { width := 640, height := 480, ld := false, combine := true, clkdivN := 1, clkdivD := 1,
    shift0 := shift0, totalLines := 525, topBlank := topBlank }

/-- The "constraint" column of R10. -/
structure Config.Legal (C : Config) : Prop where
  fRef_pos : 0 < C.fRef
  divMin_pos : 1 ≤ C.divMin
  divMin_le : C.divMin ≤ C.divMax
  divMax_lt : C.divMax < 2 ^ 32
  denom0_pos : 1 ≤ C.denom0
  denom0_lt : C.denom0 < 2 ^ 32
  postDiv_pos : 1 ≤ C.postDiv
  lockTimeout_pos : 1 ≤ C.lockTimeout
  pixRefFreq_pos : 0 < C.pixRefFreq
  mode0 : ∃ shift0 topBlank, C.modeTable 0 = some (ModeEntry.reference shift0 topBlank)
  skew_le : ∀ m, C.skew m ≤ C.shiftMax
  fbPad_ge : C.shiftMax ≤ C.fbPad
  fbAlign_pos : 0 < C.fbAlign
  fbAlign_dvd : C.fbAlign % 8 = 0
  hsLow_pos : 1 ≤ C.hsLow
  hsRest_pos : 1 ≤ C.hsRest

/-- `x` brought into `lo .. hi`. -/
def clamp (lo hi x : Nat) : Nat := max lo (min hi x)

/-- Any configuration brought under the constraints of R10; a legal one is left as it is
(`Laws.Config.legalise_of_legal`), so every legal configuration is one the chip may have. -/
def Config.legalise (C : Config) : Config :=
  let divMin := clamp 1 (2 ^ 32 - 1) C.divMin
  let entry0 := (C.modeTable 0).getD (ModeEntry.reference 0 0)
  { C with
    fRef := max 1 C.fRef
    divMin := divMin
    divMax := clamp divMin (2 ^ 32 - 1) C.divMax
    denom0 := clamp 1 (2 ^ 32 - 1) C.denom0
    postDiv := max 1 C.postDiv
    lockTimeout := max 1 C.lockTimeout
    pixRefFreq := max 1 C.pixRefFreq
    modeTable := fun m => if m = 0 then some (ModeEntry.reference entry0.shift0 entry0.topBlank) else C.modeTable m
    skew := fun m => min C.shiftMax (C.skew m)
    fbPad := max C.shiftMax C.fbPad
    fbAlign := if 0 < C.fbAlign ∧ C.fbAlign % 8 = 0 then C.fbAlign else 8
    hsLow := max 1 C.hsLow
    hsRest := max 1 C.hsRest }

/-- The open numbers and the draws of the chip: a constant with no value (R10, R9). -/
opaque Config.raw : Config

/-- The configuration the machine runs with: any legal one. -/
def Config.chip : Config := Config.raw.legalise

end Sys2Proof
end

