-- ==== Sys2Proof/Machine/State.lean ====
section
/-! DEFINITION. The state of the block as plain data (spec/10_state.md R20 to R33): the 47 numbered registers of R38,
the two byte streams, the memory `MEM` and the cache overlay `CACHE`; then the model's own fields (the ports' contents,
the operation in progress, the schedule, the counters that number the draws), which R20 counts as parameters of the
step relation and which the machine of Host/Core.lean must find in its state. -/

namespace Sys2Proof.Machine

/-- Why a step could fault. The block has no fault: "No other operation raises anything" (spec/60_exceptions.md R252),
BEGIN's three errors are result codes in RESULT0 (R250), and what the spec gives no meaning is a `refuse`. So no
operation of the model raises a fault, and the type has no constructor. Safe: there is nothing to raise. -/
inductive Fault
deriving DecidableEq, Repr

/-- Why a step is refused: the spec's own `refuse` (spec/00_scope.md R13), "the spec gives the operation no meaning in
this state". -/
inductive Refusal where
  /-- An operation that has no meaning yet, by its mnemonic. Raised by no arm of `exec`. Safe. -/
  | notModelled (mnemonic : String)
  /-- BEGIN while STATE.ST is not 0 (R221, R252, U2). Raised by BEGIN. Safe: the spec says `refuse`. -/
  | beginWhileRunning
  /-- A host access to memory outside the frame buffer (R80, R81, R92, U10). Raised by FB_LOAD, FB_STORE and, from a
  state whose registers break R27 or R32, GET_PIXEL, SET_PIXEL, the row writers and BEGIN's zero fill. Safe: the spec
  says `refuse`. -/
  | outsideFrameBuffer
  /-- A beat of more than one byte at an address that is no multiple of its size, in a state built by hand (R79: "must
  `refuse`"). Raised by DMA_BEAT, wherever it runs. Safe: the spec says `refuse`. -/
  | misalignedBeat
  /-- STRIDE is no multiple of GRAN (R302: "must `refuse`"). Raised by DMA_CONFIGURE, DMA_REPROGRAM, DMA_BEAT and a
  visible LINE_TICK. Safe: the spec says `refuse`. -/
  | strideNotGranular
  /-- TOTAL_LINES is 0 while RUNNING, a state that R25 and R312 exclude. Raised by LINE_TICK. Safe: the wrap has no
  meaning there. -/
  | noTotalLines
  /-- BEGIN reaches FB_ALLOC while a frame buffer is still allocated, against FB_ALLOC's precondition (R237). Raised by
  BEGIN. Safe: the sub-step has no transition there. -/
  | alreadyAllocated
  /-- A host-class word performed while the interrupt routine's atomic section is open (R262: "A host-class operation
  issued from inside LINE_TICK is `refuse`"; U3). Raised by the machine's step, by no operation. Safe: the spec says
  `refuse`. -/
  | hostInsideInterrupt
  /-- The schedule has an agent of the block perform a word that is not of the internal class (R104, R106). Raised by
  the machine's step, by no operation. Safe: no agent of the block issues such a word. -/
  | notAnInternalWord
deriving DecidableEq, Repr

/-- The controller's VideoMode registers, numbers 0x10 to 0x1C (R25). -/
@[ext]
structure VideoMode where
  modeId : Word
  width : Word
  height : Word
  stride : Word
  mflags : Word
  shift0 : Word
  clkdivN : Word
  clkdivD : Word
  lborder : Word
  rborder : Word
  totalLines : Word
  topBlank : Word
  gran : Word
deriving DecidableEq, Repr

/-- The clock synthesizer's registers, numbers 0x20 to 0x23 (R28). -/
@[ext]
structure Pll where
  div : Word
  num : Word
  denom : Word
  ctrl : Word
deriving DecidableEq, Repr

/-- The line timer's registers, numbers 0x30 to 0x33 (R29). -/
@[ext]
structure LineTimer where
  cnt : Word
  cmp1 : Word
  cmp2 : Word
  ctrl : Word
deriving DecidableEq, Repr

/-- A DMA transfer descriptor, numbers 0x40 to 0x46 and 0x50 to 0x56 (R30). -/
@[ext]
structure Descriptor where
  saddr : Word
  daddr : Word
  beat : Word
  count : Word
  rem : Word
  slast : Word
  dcsr : Word
deriving DecidableEq, Repr

/-- The frame buffer's registers, numbers 0x60 to 0x62 (R32). -/
@[ext]
structure FrameBuffer where
  base : Word
  size : Word
  ctrl : Word
deriving DecidableEq, Repr

/-- The framer's registers, numbers 0x70 to 0x72 (R33). -/
@[ext]
structure Framer where
  px : Word
  ctrl : Word
  color : Word
deriving DecidableEq, Repr

/-- A sparse map from addresses to bytes in one canonical form (`Memory.wf`). What an address it does not list reads as
is said where the map is used: for `MEM`, the unspecified contents (R73, `memByte`); for `CACHE`, that the byte is clean
(R72). So no listed byte can equal what an unlisted address reads as. -/
abbrev Memory := List Host.Cell

/-- The canonical form: addresses strictly rising, all within the 32-bit address space (R70). -/
abbrev Memory.wf (m : Memory) : Prop :=
  m.Pairwise (fun x y => x.1 < y.1) ∧ ∀ x ∈ m, x.1 < 2 ^ 32

/-- What may happen in a gap of an operation (R8, R317): an indivisible step of an autonomous agent, or the RESET event,
which abandons the operation (R280). For a DMA channel it is the next step of a beat: it begins one, reads one byte, or
ends it (R317: "every byte read, then the descriptor update as one step"). -/
inductive Turn where
  | tmrStep
  | pllLock
  | shiftOut
  | cacheEvict (addr : Word)
  | dmaBeat (c : Channel)
  | reset
deriving DecidableEq, Repr

/-- Whose move is next: HOST's, an agent's of the block performing an internal-class word, or the RESET pin's (R280). -/
inductive Slot where
  | host
  | agent (word : Command)
  | reset
deriving DecidableEq, Repr

/-- What HSYNC, FLAGS.VSYNC and COLOR[7:0] are at one step TMR_STEP, LINE_TICK or SHIFT_OUT (R34). -/
structure Sample where
  hsync : Bool
  vsync : Bool
  color : Byte
deriving DecidableEq, Repr

/-- The state of the block. -/
@[ext]
structure State where
  /-- STATE, 0x00 (R21). -/
  stateReg : Word
  /-- RESULT0, 0x01 (R22). -/
  result0 : Word
  /-- RESULT1, 0x02 (R22). -/
  result1 : Word
  /-- LINE, 0x03 (R23). -/
  line : Word
  /-- FLAGS, 0x04 (R24). -/
  flags : Word
  /-- 0x10 to 0x1C (R25). -/
  mode : VideoMode
  /-- SHIFT, 0x1D (R26). -/
  shift : Word
  /-- 0x20 to 0x23 (R28). -/
  pll : Pll
  /-- 0x30 to 0x33 (R29). -/
  tmr : LineTimer
  /-- Channel 0, 0x40 to 0x46 (R30). -/
  dma0 : Descriptor
  /-- Channel 1, 0x50 to 0x56 (R30). -/
  dma1 : Descriptor
  /-- 0x60 to 0x62 (R32). -/
  fb : FrameBuffer
  /-- 0x70 to 0x72 (R33). -/
  frm : Framer
  /-- STREAM[0] (R33). -/
  stream0 : List Byte
  /-- STREAM[1] (R33). -/
  stream1 : List Byte
  /-- `MEM`: the bytes written back since they were last made unspecified (R72, R73). -/
  mem : Memory
  /-- `CACHE`: the dirty bytes (R72). -/
  cache : Memory
  /-- Model's own: how many times memory was made unspecified by an allocation (R73, R237). -/
  epoch : Nat
  /-- Model's own: the number of the next draw (R9). -/
  draws : Nat
  /-- Model's own: the command words HOST has presented on the CMD port and not yet had taken (R34, R100). -/
  cmd : List Command
  /-- Model's own: the elements on the DATA port (R34, R103). -/
  data : List Half
  /-- Model's own: the wait in which HOST is held (R210). -/
  pending : Option Instr
  /-- Model's own: the schedule of the agents' moves; where it ends, HOST moves (R8). -/
  agenda : List Slot
  /-- Model's own: for each coming gap inside an operation, the turns the other agents take in it (R317). -/
  gaps : List (List Turn)
  /-- Model's own: the block's observable output so far (R34), a sample for each step TMR_STEP, LINE_TICK and SHIFT_OUT
  taken, the newest first. No operation reads it. -/
  shown : List Sample
deriving DecidableEq, Repr

/-- R25: reset, and END, leave every VideoMode register 0. -/
def VideoMode.zero : VideoMode :=
  { modeId := 0, width := 0, height := 0, stride := 0, mflags := 0, shift0 := 0, clkdivN := 0, clkdivD := 0,
    lborder := 0, rborder := 0, totalLines := 0, topBlank := 0, gran := 0 }

/-- R28: the reset values; `PLL_DENOM` = 1. -/
def Pll.off : Pll := { div := 0, num := 0, denom := 1, ctrl := 0 }

/-- R29: the reset values; `TMR_CTRL` = 0x8, OUT = 1. -/
def LineTimer.stopped : LineTimer := { cnt := 0, cmp1 := 0, cmp2 := 0, ctrl := 8 }

/-- R30: reset, and END, leave a descriptor 0. -/
def Descriptor.zero : Descriptor :=
  { saddr := 0, daddr := 0, beat := 0, count := 0, rem := 0, slast := 0, dcsr := 0 }

/-- R32: no frame buffer. -/
def FrameBuffer.none : FrameBuffer := { base := 0, size := 0, ctrl := 0 }

/-- R33: the framer at reset. -/
def Framer.idle : Framer := { px := 0, ctrl := 0, color := 0 }

/-- R42: the block right after reset. Every register has the value the spec gives; the streams and `CACHE` are empty;
`MEM` lists nothing, so every byte of it is unspecified (R73). The model's own fields start empty and at 0
(notes/assumptions/7.md). -/
def State.reset : State :=
  { stateReg := 0, result0 := 0, result1 := 0, line := 0, flags := 0
    mode := VideoMode.zero, shift := 0, pll := Pll.off, tmr := LineTimer.stopped
    dma0 := Descriptor.zero, dma1 := Descriptor.zero, fb := FrameBuffer.none, frm := Framer.idle
    stream0 := [], stream1 := [], mem := [], cache := []
    epoch := 0, draws := 0, cmd := [], data := [], pending := Option.none, agenda := [], gaps := []
    shown := [] }

/-- The outcome of an operation. -/
abbrev Result := Host.Outcome State Fault Refusal

end Sys2Proof.Machine
end

