-- ==== Sys2Proof/Machine/Memory.lean ====
section
/-! DEFINITION. Reading, writing and forgetting bytes of a sparse map (spec/20_memory.md R72). Every operation keeps the
canonical form `Memory.wf` (Laws/Memory.lean). -/

namespace Sys2Proof.Machine

/-- The byte listed at an address. -/
def memGet : Memory → Nat → Option Byte
  | [], _ => none
  | (b, v) :: m, a => if a = b then some v else memGet m a

/-- Write the byte at an address. -/
def memSet : Memory → Nat → Byte → Memory
  | [], a, v => [(a, v)]
  | (b, w) :: m, a, v =>
    if a < b then (a, v) :: (b, w) :: m
    else if a = b then (a, v) :: m
    else (b, w) :: memSet m a v

/-- Forget the byte at an address. -/
def memErase (m : Memory) (a : Nat) : Memory := m.filter (fun x => x.1 != a)

/-- Forget the `n` bytes from an address on. -/
def memEraseRange (m : Memory) (a n : Nat) : Memory := m.filter (fun x => !(decide (a ≤ x.1) && decide (x.1 < a + n)))

end Sys2Proof.Machine
end

