-- ==== Sys2Proof/Machine/Flags.lean ====
section
/-! DEFINITION. The flags of the block (spec/10_state.md R37): one bit of a control register each, its position from the
rule that defines the register; reading a field, and `r[NAME].F <- v`, which leaves the other fields unchanged
(spec/00_scope.md R13). Then the interrupt request line (spec/43_scanline_driver.md R192). -/

namespace Sys2Proof.Machine

/-- Bit `i` of a register. -/
def getFlag (r : Word) (i : Nat) : Bool := r.getLsbD i

/-- The one-bit mask of bit `i`. -/
def flagMask (i : Nat) : Word := 1#32 <<< i

/-- A register with bit `i` written and the others unchanged. -/
def setFlag (r : Word) (i : Nat) (v : Bool) : Word :=
  if v then r ||| flagMask i else r &&& ~~~(flagMask i)

/-! ## STATE and FLAGS (R21, R24) -/

/-- STATE.ST, bits[1:0] (R21). -/
def State.st (s : State) : BitVec 2 := s.stateReg.extractLsb' 0 2
/-- IDLE (R21). -/
def State.idle (s : State) : Bool := s.st == 0
/-- RUNNING (R21). -/
def State.running (s : State) : Bool := s.st == 1
/-- FLAGS.FRAME_START. -/
def State.frameStart (s : State) : Bool := getFlag s.flags 0
/-- FLAGS.VSYNC. -/
def State.vsync (s : State) : Bool := getFlag s.flags 1
/-- FLAGS.IRQ_MASK. -/
def State.irqMasked (s : State) : Bool := getFlag s.flags 2
/-- FLAGS.UNALIGNED. -/
def State.unaligned (s : State) : Bool := getFlag s.flags 3
/-- `r[FLAGS].F <- v`, by F's bit. -/
def State.setFlags (s : State) (bit : Nat) (v : Bool) : State := { s with flags := setFlag s.flags bit v }
/-- The bit of FLAGS.FRAME_START. -/
def frameStartBit : Nat := 0
/-- The bit of FLAGS.VSYNC. -/
def vsyncBit : Nat := 1
/-- The bit of FLAGS.IRQ_MASK. -/
def irqMaskBit : Nat := 2
/-- The bit of FLAGS.UNALIGNED. -/
def unalignedBit : Nat := 3

/-! ## MFLAGS (R25) -/

/-- MFLAGS.LD, the line-doubling flag. -/
def VideoMode.ld (m : VideoMode) : Bool := getFlag m.mflags 0
/-- MFLAGS.COMBINE. -/
def VideoMode.combine (m : VideoMode) : Bool := getFlag m.mflags 1
/-- The MFLAGS register of a line-doubling and a combine flag. -/
def packMflags (ld combine : Bool) : Word := setFlag (setFlag 0 0 ld) 1 combine

/-! ## PLL_CTRL (R28) -/

/-- PLL_CTRL.ENABLE. -/
def State.pllEnabled (s : State) : Bool := getFlag s.pll.ctrl 0
/-- PLL_CTRL.LOCK. -/
def State.pllLocked (s : State) : Bool := getFlag s.pll.ctrl 31
/-- `r[PLL_CTRL].ENABLE <- v`. -/
def State.setPllEnable (s : State) (v : Bool) : State := { s with pll := { s.pll with ctrl := setFlag s.pll.ctrl 0 v } }
/-- `r[PLL_CTRL].LOCK <- v`. -/
def State.setPllLock (s : State) (v : Bool) : State := { s with pll := { s.pll with ctrl := setFlag s.pll.ctrl 31 v } }

/-! ## TMR_CTRL (R29) -/

/-- TMR_CTRL.RUN. -/
def State.tmrRun (s : State) : Bool := getFlag s.tmr.ctrl 0
/-- TMR_CTRL.IE. -/
def State.tmrIe (s : State) : Bool := getFlag s.tmr.ctrl 1
/-- TMR_CTRL.PHASE. -/
def State.tmrPhase (s : State) : Bool := getFlag s.tmr.ctrl 2
/-- TMR_CTRL.OUT, the level of the HSYNC pin. -/
def State.tmrOut (s : State) : Bool := getFlag s.tmr.ctrl 3
/-- TMR_CTRL.TCF1, the pending line interrupt (R193). -/
def State.tcf1 (s : State) : Bool := getFlag s.tmr.ctrl 4
/-- TMR_CTRL.TCF2. -/
def State.tcf2 (s : State) : Bool := getFlag s.tmr.ctrl 5
/-- `r[TMR_CTRL].F <- v`, by F's bit. -/
def LineTimer.setCtrl (t : LineTimer) (bit : Nat) (v : Bool) : LineTimer := { t with ctrl := setFlag t.ctrl bit v }

/-- R192: the request line from TMR to the processor, `irq = IE and TCF1`; level-sensitive. -/
def State.irq (s : State) : Bool := s.tmrIe && s.tcf1

/-! ## DCSR (R30) -/

/-- DCSR.ERQ: the channel is armed. -/
def Descriptor.erq (d : Descriptor) : Bool := getFlag d.dcsr 0
/-- DCSR.DREQ: auto-disable on completion. -/
def Descriptor.dreq (d : Descriptor) : Bool := getFlag d.dcsr 1
/-- DCSR.DONE. -/
def Descriptor.done (d : Descriptor) : Bool := getFlag d.dcsr 2
/-- `r[DCSR[c]].ERQ <- v`. -/
def Descriptor.setErq (d : Descriptor) (v : Bool) : Descriptor := { d with dcsr := setFlag d.dcsr 0 v }
/-- `r[DCSR[c]].DREQ <- v`. -/
def Descriptor.setDreq (d : Descriptor) (v : Bool) : Descriptor := { d with dcsr := setFlag d.dcsr 1 v }
/-- `r[DCSR[c]].DONE <- v`. -/
def Descriptor.setDone (d : Descriptor) (v : Bool) : Descriptor := { d with dcsr := setFlag d.dcsr 2 v }

/-! ## FB_CTRL and FRM_CTRL (R32, R33) -/

/-- FB_CTRL.VALID. -/
def State.fbValid (s : State) : Bool := getFlag s.fb.ctrl 0
/-- FRM_CTRL.ACTIVE. -/
def State.frmActive (s : State) : Bool := getFlag s.frm.ctrl 0
/-- FRM_CTRL.CORRUPT. -/
def State.frmCorrupt (s : State) : Bool := getFlag s.frm.ctrl 1
/-- `r[FRM_CTRL].ACTIVE <- v`. -/
def Framer.setActive (f : Framer) (v : Bool) : Framer := { f with ctrl := setFlag f.ctrl 0 v }
/-- `r[FRM_CTRL].CORRUPT <- v`. -/
def Framer.setCorrupt (f : Framer) (v : Bool) : Framer := { f with ctrl := setFlag f.ctrl 1 v }

end Sys2Proof.Machine
end

