-- ==== Sys2Proof/Machine/Operands.lean ====
section
/-! DEFINITION. How an operand or an address is formed (spec/30_encoding.md R101, spec/20_memory.md R74 to R76,
spec/46_operation_laws.md R315). Addresses are computed on exact integers (R310); a register holds them reduced to its
32 bits. -/

namespace Sys2Proof.Machine

/-- R101: an `s16` operand, used as an exact integer. -/
def s16 (h : Half) : Int := h.toInt

/-- R101: a `u16` operand, zero-extended. -/
def u16 (h : Half) : Nat := h.toNat

/-- R12: a byte zero-extended to a register. -/
def zextByte (b : Byte) : Word := b.setWidth 32

/-- R74: `RowBase(row) = FB_BASE + STRIDE * row`. -/
def State.rowBase (s : State) (row : Nat) : Nat := s.fb.base.toNat + s.mode.stride.toNat * row

/-- R75: the visible window pointer, `Win = FB_BASE + LBORDER`. -/
def State.win (s : State) : Nat := s.fb.base.toNat + s.mode.lborder.toNat

/-- R75: `PixAddr(x, y) = Win + STRIDE * y + x`. -/
def State.pixAddr (s : State) (x y : Nat) : Nat := s.win + s.mode.stride.toNat * y + x

/-- R226, R227: `0 <= x < WIDTH`, a signed coordinate (R313). -/
def State.xInside (s : State) (x : Half) : Bool := decide (0 ≤ s16 x ∧ s16 x < s.mode.width.toNat)

/-- R225 to R228: `0 <= y < HEIGHT`, a signed coordinate (R313). -/
def State.yInside (s : State) (y : Half) : Bool := decide (0 ≤ s16 y ∧ s16 y < s.mode.height.toNat)

/-- R226, R227: RUNNING, and both coordinates in range. -/
def State.pixelInside (s : State) (x y : Half) : Bool := s.running && s.xInside x && s.yInside y

/-- R76, R80, R92: the byte lies inside the frame buffer, and so inside the 32-bit address space. DESIGN CHOICE
(notes/assumptions/11.md): in a frame buffer granted at address 0 the byte 0 lies inside it, as R233 and R234 say, though
R225 (b) has accesses through the null pointer refused. -/
def State.inFrameBuffer (s : State) (a : Nat) : Bool :=
  s.fbValid && decide (s.fb.base.toNat ≤ a ∧ a < s.fb.base.toNat + s.fb.size.toNat ∧ a < 2 ^ 32)

/-- R195 step 4, R199: the row a line shows; none on a blanking line. The difference is taken on integers: a line above
the visible window is a blanking line. -/
def State.visibleRow (s : State) : Option Nat :=
  let d : Int := (s.line.toNat : Int) - (s.mode.topBlank.toNat : Int)
  if 0 ≤ d then
    let row := d.toNat >>> (if s.mode.ld then 1 else 0)
    if row < s.mode.height.toNat then some row else none
  else none

/-- R302: `STRIDE mod GRAN = 0`, with a GRAN that has been written. -/
def State.granular (s : State) : Bool :=
  s.mode.gran.toNat != 0 && s.mode.stride.toNat % s.mode.gran.toNat == 0

/-- "The VideoMode registers are written" (the preconditions of R163, R167 and R237): GRAN is 4 or 8 once BEGIN has
written them and 0 before (R25). -/
def State.modeWritten (s : State) : Bool := s.mode.gran != 0

end Sys2Proof.Machine
end

