-- ==== Sys2Proof/Machine/Ops.lean ====
section
/-! DEFINITION. The named operations over registers and memory that the meanings share: the two channels and their
streams, the numbered register file (spec/10_state.md R38), the memory primitives of spec/20_memory.md R80 to R84, the
draws (spec/00_scope.md R9), the samples of the output pins (R34), the result code (spec/60_exceptions.md R250), the
entry to the line interrupt and the return from it (R259, R260), and the RESET event (spec/70_reset_and_hazards.md
R280). First, what an operation and its parts answer. -/

namespace Sys2Proof

/-- The draw `alloc` under its law (R9, R237): an address is granted only if it is aligned to `P_FB_ALIGN` and the
`size` bytes from it lie below 2^32; what breaks the law is no grant. DESIGN CHOICE (notes/assumptions/11.md): the law
does not exclude a grant at address 0, the null pointer of R225, so neither does this. -/
def Config.allocDraw (C : Config) (draw size : Nat) : Option Nat :=
  match C.alloc draw with
  | none => none
  | some a => if a % C.fbAlign = 0 ∧ a + size ≤ 2 ^ 32 then some a else none

/-- The largest number a 32-bit register holds (R11). -/
def largestWord : Nat := 2 ^ 32 - 1

/-- What a 32-bit register holds after the number `v` is written to it (R310: "reduced to a register's width only when
it is written"), where the laws of the register let it hold `most` at the most: `v`, or, where `v` is more, a free value of
`least .. most`. DESIGN CHOICE, notes/assumptions/3.md. -/
def Config.held (C : Config) (register : Byte) (least most v : Nat) : Word :=
  if v ≤ most then BitVec.ofNat 32 v else BitVec.ofNat 32 (clamp least most (C.oversize register v).toNat)

end Sys2Proof

namespace Sys2Proof.Machine

/-! ## Outcomes -/

/-- What a part of an operation answers: it goes on with a value, or the RESET event abandons the operation and leaves
the state `s` (R280), or it is refused. -/
inductive Flow (α : Type) where
  | next (a : α)
  | abandoned (s : State)
  | refused (e : Refusal)
deriving DecidableEq, Repr

/-- Go on with what a part answers; a RESET event and a refusal end the operation. -/
def andThen {α β : Type} (r : Flow α) (f : α → Flow β) : Flow β :=
  match r with
  | .next a => f a
  | .abandoned s => .abandoned s
  | .refused e => .refused e

/-- An indivisible operation as a part of another. -/
def asPart (r : Result) : Flow State :=
  match r with
  | .next s => .next s
  | .fault e => nomatch e
  | .refused e => .refused e

/-- The outcome of a whole operation: where the RESET event abandoned it, the state that event left. -/
def settle (r : Flow State) : Result :=
  match r with
  | .next s => .next s
  | .abandoned s => .next s
  | .refused e => .refused e

/-- An indivisible sub-step that only writes registers. -/
def assign (f : State → State) (s : State) : Flow State := .next (f s)

/-! ## Channels -/

/-- Channel `c`'s descriptor (R30). -/
def State.chan (s : State) (c : Channel) : Descriptor :=
  match c with
  | .primary => s.dma0
  | .secondary => s.dma1

/-- Write channel `c`'s descriptor. -/
def State.setChan (s : State) (c : Channel) (d : Descriptor) : State :=
  match c with
  | .primary => { s with dma0 := d }
  | .secondary => { s with dma1 := d }

/-- STREAM[c] (R33). -/
def State.stream (s : State) (c : Channel) : List Byte :=
  match c with
  | .primary => s.stream0
  | .secondary => s.stream1

/-- Write STREAM[c]. -/
def State.setStream (s : State) (c : Channel) (bs : List Byte) : State :=
  match c with
  | .primary => { s with stream0 := bs }
  | .secondary => { s with stream1 := bs }

/-- R71: a write to port `c` appends the bytes, in order, to STREAM[c]; its only effect. -/
def writePort (c : Channel) (bs : List Byte) (s : State) : State := s.setStream c (s.stream c ++ bs)

/-- R71, R163: the port number of channel `c`'s data port. -/
def portNumber : Channel → Word
  | .primary => 0
  | .secondary => 1

/-! ## The numbered register file (R38) -/

/-- A descriptor's seven registers, numbered from `base` (R30). -/
def descriptorTable (base : Byte) (d : State → Descriptor) : List (Byte × (State → Word)) :=
  [ (base, fun s => (d s).saddr), (base + 1, fun s => (d s).daddr), (base + 2, fun s => (d s).beat),
    (base + 3, fun s => (d s).count), (base + 4, fun s => (d s).rem), (base + 5, fun s => (d s).slast),
    (base + 6, fun s => (d s).dcsr &&& 0x7) ]

/-- The 47 implemented registers by number; a reserved bit reads as zero (R21, R24, R25, R28 to R30, R32, R33). -/
def registerTable : List (Byte × (State → Word)) :=
  [ (0x00, fun s => s.stateReg &&& 0x3), (0x01, fun s => s.result0), (0x02, fun s => s.result1),
    (0x03, fun s => s.line), (0x04, fun s => s.flags &&& 0xF),
    (0x10, fun s => s.mode.modeId), (0x11, fun s => s.mode.width), (0x12, fun s => s.mode.height),
    (0x13, fun s => s.mode.stride), (0x14, fun s => s.mode.mflags &&& 0x3), (0x15, fun s => s.mode.shift0),
    (0x16, fun s => s.mode.clkdivN), (0x17, fun s => s.mode.clkdivD), (0x18, fun s => s.mode.lborder),
    (0x19, fun s => s.mode.rborder), (0x1A, fun s => s.mode.totalLines), (0x1B, fun s => s.mode.topBlank),
    (0x1C, fun s => s.mode.gran), (0x1D, fun s => s.shift),
    (0x20, fun s => s.pll.div), (0x21, fun s => s.pll.num), (0x22, fun s => s.pll.denom),
    (0x23, fun s => s.pll.ctrl &&& 0x80000001),
    (0x30, fun s => s.tmr.cnt), (0x31, fun s => s.tmr.cmp1), (0x32, fun s => s.tmr.cmp2),
    (0x33, fun s => s.tmr.ctrl &&& 0x3F) ]
  ++ descriptorTable 0x40 State.dma0
  ++ descriptorTable 0x50 State.dma1
  ++ [ (0x60, fun s => s.fb.base), (0x61, fun s => s.fb.size), (0x62, fun s => s.fb.ctrl &&& 0x1),
    (0x70, fun s => s.frm.px), (0x71, fun s => s.frm.ctrl &&& 0x3), (0x72, fun s => s.frm.color &&& 0xFF) ]

/-- R214, R38: a read of register `n`; an unimplemented number reads as 0. -/
def readRegister (s : State) (n : Byte) : Word :=
  match registerTable.lookup n with
  | some read => read s
  | none => 0

/-! ## Memory (R72, R73, R80 to R84) -/

/-- `MEM[a]`: the byte last written back, or else the unspecified contents (R72, R73). -/
def memByte (C : Config) (s : State) (a : Nat) : Byte := (memGet s.mem a).getD (C.memInit s.epoch a)

/-- R80: the host's view of byte `a`: `CACHE[a]` if it is dirty, else `MEM[a]`. -/
def hostByte (C : Config) (s : State) (a : Nat) : Byte := (memGet s.cache a).getD (memByte C s a)

/-- `MemRead(HOST, a, 1)` into RESULT0, zero-extended (R80, R226, R233). -/
def loadByte (C : Config) (a : Nat) (s : State) : Result :=
  if s.inFrameBuffer a then .next { s with result0 := zextByte (hostByte C s a) } else .refused .outsideFrameBuffer

/-- `MemWrite(HOST, a, 1, [v])` (R81): the byte becomes dirty; `MEM` is not changed. -/
def storeByte (a : Nat) (v : Byte) (s : State) : Result :=
  if s.inFrameBuffer a then .next { s with cache := memSet s.cache a v } else .refused .outsideFrameBuffer

/-- R83, R84: a dirty byte goes back to `MEM` and is dirty no longer. -/
def writeBack (a : Nat) (s : State) : State :=
  match memGet s.cache a with
  | some v => { s with mem := memSet s.mem a v, cache := memErase s.cache a }
  | none => s

/-- One byte of `MemRead(DMA, …)` (R82): `MEM[a]` inside the allocation, a draw outside it; never `CACHE`. -/
def dmaReadByte (C : Config) (a : Nat) (s : State) : Byte × State :=
  if s.inFrameBuffer a then (memByte C s a, s) else (C.strayByte s.draws, { s with draws := s.draws + 1 })

/-! ## The observable output (R34) -/

/-- What the output pins show in this state, the level of VSYNC by its flag. -/
def State.sample (s : State) : Sample :=
  { hsync := s.tmrOut, vsync := s.vsync, color := s.frm.color.extractLsb' 0 8 }

/-- R34: the values the pins have taken at this step join the observable sequence. -/
def State.record (s : State) : State := { s with shown := s.sample :: s.shown }

/-! ## The result code (R250) -/

/-- R250: OK. -/
def codeOk : Word := 0
/-- R250: ALLOCATION_FAILED. -/
def codeAllocationFailed : Word := 1
/-- R250: MODE_UNSUPPORTED. -/
def codeModeUnsupported : Word := 2
/-- R250: CLOCK_LOCK_TIMEOUT. -/
def codeClockLockTimeout : Word := 3

/-- `raise E` of BEGIN (R13, R250): the error is its code in RESULT0; nothing transfers control to a handler. -/
def report (code : Word) (s : State) : State := { s with result0 := code }

/-- A failed BEGIN's report: the code in RESULT0, and RESULT1 at its reset value, as R222, R283 and D6 have every register
but RESULT0 after a failed BEGIN. That the two are written as one step is DEDUCED (notes/assumptions/26.md). -/
def reportFailure (code : Word) (s : State) : State := report code { s with result1 := 0 }

/-! ## The line interrupt: entry and return (R259, R260, R201, R202) -/

/-- R259: taking the line interrupt changes `IRQ_MASK` to 1 and nothing else: "The block itself saves nothing on entry";
there is no vector, no stack and no mode register. -/
def takeLineInterrupt (s : State) : State := s.setFlags irqMaskBit true

/-- R260: the return "restores nothing but the mask". -/
def returnFromInterrupt (s : State) : State := s.setFlags irqMaskBit false

/-- R195: when agent SEQ may enter LINE_TICK: RUNNING, the request of R192 asserted, and no mask. -/
def State.tickEnabled (s : State) : Bool := s.running && s.irq && !s.irqMasked

/-! ## The RESET event (R280) -/

/-- R280: RESET gives every register its reset value, empties the streams and `CACHE`, leaves `MEM` as it is, and
abandons a wait in progress. What lies outside the block (the ports' queues, the schedule, the output shown so far) and
the counters of the draws are not reset (notes/assumptions/14.md). -/
def resetEvent (s : State) : State :=
  { State.reset with
    mem := s.mem, epoch := s.epoch, draws := s.draws, cmd := s.cmd, data := s.data, agenda := s.agenda
    gaps := s.gaps, shown := s.shown }

end Sys2Proof.Machine
end

