-- ==== Sys2Proof/Machine/Agents.lean ====
section
/-! DEFINITION. The steps of the autonomous agents (spec/00_scope.md R7): TMR, PLL, FRM, CACHE and the two DMA channels;
then what those agents, and the RESET event, do in the gaps of another agent's operation (R8,
spec/46_operation_laws.md R317, R280). A step whose precondition is false is not taken: it leaves the state as it is. -/

namespace Sys2Proof.Machine

/-! ## Indivisible steps (R317) -/

/-- The timer after a clock (R191): the end of the low phase, the end of the other phase, or the count. -/
def LineTimer.clocked (t : LineTimer) : LineTimer :=
  let phase := getFlag t.ctrl 2
  let n := t.cnt.toNat + 1
  if !phase && decide (n = t.cmp1.toNat) then { (((t.setCtrl 3 true).setCtrl 4 true).setCtrl 2 true) with cnt := 0 }
  else if phase && decide (n = t.cmp2.toNat) then
    { (((t.setCtrl 3 false).setCtrl 5 true).setCtrl 2 false) with cnt := 0 }
  else { t with cnt := BitVec.ofNat 32 n }

/-- One clock of the line timer (R191), and what the pins then show (R34). -/
def timerClock (s : State) : State := if s.tmrRun then ({ s with tmr := s.tmr.clocked }).record else s

/-- The PLL locks (R147). -/
def lockPll (s : State) : State := if s.pllEnabled && !s.pllLocked then s.setPllLock true else s

/-- CACHE writes a dirty byte back (R241, R83); a clean byte is left alone. -/
def evictByte (addr : Word) (s : State) : State := writeBack addr.toNat s

/-- Both lanes have the byte they need at pixel `t` of a line of `len` bytes with skew `k` (R173's hold). -/
def lanesReady (s : State) (t len k : Nat) : Bool :=
  (!decide (t < len) || decide (t < s.stream0.length)) && (!decide (k ≤ t) || decide (t - k < s.stream1.length))

/-- R162, R173: `{lane1, lane0}` at pixel `t`: the high four bits of byte `t - k` of STREAM[1] over the low four bits of
byte `t` of STREAM[0]; a lane with no byte to show is 0. -/
def lanes (s : State) (t len k : Nat) : Word :=
  let lane1 : BitVec 4 := if k ≤ t then (s.stream1.getD (t - k) 0).extractLsb' 4 4 else 0
  let lane0 : BitVec 4 := if t < len then (s.stream0.getD t 0).extractLsb' 0 4 else 0
  zextByte (lane1 ++ lane0)

/-- One pixel clock of the framer (R173), and what the pins then show (R34). A held pixel clock is a step not taken. -/
def pixelClock (C : Config) (s : State) : State :=
  if s.frmActive then
    let t := s.frm.px.toNat
    let len := s.mode.stride.toNat
    let k := C.skew s.mode.modeId.toNat
    if t = len + k then
      ({ s with frm := { ((s.frm.setActive false).setCorrupt false) with color := 0 } }).record
    else if s.frmCorrupt then
      ({ s with frm := { s.frm with color := zextByte (C.corruptColour s.draws), px := BitVec.ofNat 32 (t + 1) }
                draws := s.draws + 1 }).record
    else if lanesReady s t len k then
      ({ s with frm := { s.frm with color := lanes s t len k, px := BitVec.ofNat 32 (t + 1) } }).record
    else s
  else s

/-! ## A DMA beat (R169) -/

/-- R169: the channel is armed and has beats left. -/
def beatEnabled (c : Channel) (s : State) : Bool := (s.chan c).erq && decide (0 < (s.chan c).rem.toNat)

/-- R79: a beat of more than one byte starts at a multiple of its size. -/
def beatAligned (c : Channel) (s : State) : Bool :=
  decide ((s.chan c).beat.toNat ≤ 1 ∨ (s.chan c).saddr.toNat % (s.chan c).beat.toNat = 0)

/-- R169: the descriptor after a beat: advanced; and after the last beat of the line rewound by SLAST, reloaded, DONE,
and disarmed if DREQ. Sums are modulo 2^32; DADDR is not advanced. -/
def advanceDescriptor (d : Descriptor) : Descriptor :=
  let d1 := { d with saddr := d.saddr + d.beat, rem := d.rem - 1 }
  if d1.rem = 0 then
    let d2 := ({ d1 with saddr := d1.saddr + d1.slast, rem := d1.count }).setDone true
    if d2.dreq then d2.setErq false else d2
  else d1

/-- R169: the bytes read are written to the channel's port and the descriptor is updated, as one step. -/
def finishBeat (c : Channel) (bytes : List Byte) (s : State) : State :=
  let s1 := writePort c bytes s
  s1.setChan c (advanceDescriptor (s1.chan c))

/-- R169, R79, R302: a beat begins only with an aligned address and a granular stride, and is refused otherwise, which
occurs only in a state built by hand: DMA_REPROGRAM lets channel 1 take no beat that would lead to a misaligned one
(`readdressSecondary`). -/
def beatRefusal (c : Channel) (s : State) : Option Refusal :=
  if !s.granular then some .strideNotGranular
  else if !beatAligned c s then some .misalignedBeat
  else none

/-- A beat that has begun and not ended: the address of its next byte, how many bytes are left, and those read. -/
structure OpenBeat where
  next : Nat
  left : Nat
  bytes : List Byte
deriving DecidableEq, Repr

/-- The beats in progress among the turns of a gap, by channel. None is in progress outside the operation it belongs
to: R317 names TMR, DMA0, DMA1, FRM, PLL and CACHE, and not HOST or SEQ, as the agents that step inside a beat. -/
structure OpenBeats where
  primary : Option OpenBeat
  secondary : Option OpenBeat
deriving DecidableEq, Repr

/-- No beat in progress. -/
def OpenBeats.empty : OpenBeats := { primary := none, secondary := none }

/-- Channel `c`'s beat in progress. -/
def OpenBeats.chan (b : OpenBeats) : Channel → Option OpenBeat
  | .primary => b.primary
  | .secondary => b.secondary

/-- Change channel `c`'s beat in progress. -/
def OpenBeats.setChan (b : OpenBeats) (c : Channel) (o : Option OpenBeat) : OpenBeats :=
  match c with
  | .primary => { b with primary := o }
  | .secondary => { b with secondary := o }

/-- What the turns of a gap answer: the beats still in progress, and the state. -/
abbrev TurnResult := Flow (OpenBeats × State)

/-- One step of channel `c`'s beat: it begins, reads its next byte (R82), or ends (R169). -/
def beatTurn (C : Config) (c : Channel) (b : OpenBeats) (s : State) : TurnResult :=
  match b.chan c with
  | none =>
    if beatEnabled c s then
      match beatRefusal c s with
      | some e => .refused e
      | none => .next (b.setChan c (some ⟨(s.chan c).saddr.toNat, (s.chan c).beat.toNat, []⟩), s)
    else .next (b, s)
  | some ⟨_, 0, bytes⟩ => .next (b.setChan c none, finishBeat c bytes s)
  | some ⟨a, n + 1, bytes⟩ =>
    .next (b.setChan c (some ⟨a + 1, n, bytes ++ [(dmaReadByte C a s).1]⟩), (dmaReadByte C a s).2)

/-! ## Gaps (R8, R196, R317) -/

/-- One turn of an autonomous agent, or the RESET event. The channel `own`, whose own operation the gap belongs to or
which is held in it, has no turn in it. -/
def takeTurn (C : Config) (own : Option Channel) (t : Turn) (b : OpenBeats) (s : State) : TurnResult :=
  match t with
  | .tmrStep => .next (b, timerClock s)
  | .pllLock => .next (b, lockPll s)
  | .shiftOut => .next (b, pixelClock C s)
  | .cacheEvict addr => .next (b, evictByte addr s)
  | .dmaBeat c => if own = some c then .next (b, s) else beatTurn C c b s
  | .reset => .abandoned (resetEvent s)

/-- The turns of one gap, in order. -/
def takeTurns (C : Config) (own : Option Channel) : List Turn → OpenBeats → State → TurnResult
  | [], b, s => .next (b, s)
  | t :: ts, b, s => andThen (takeTurn C own t b s) fun r => takeTurns C own ts r.1 r.2

/-- The turns of the next gap. -/
def gapTurns (C : Config) (own : Option Channel) (b : OpenBeats) (s : State) : TurnResult :=
  match s.gaps with
  | [] => .next (b, s)
  | ts :: rest => takeTurns C own ts b { s with gaps := rest }

/-- The rest of a beat: the bytes that are left, and its end. -/
def closeBeat (C : Config) (c : Channel) : Nat → Nat → List Byte → State → State
  | 0, _, bytes, s => finishBeat c bytes s
  | n + 1, a, bytes, s => closeBeat C c n (a + 1) (bytes ++ [(dmaReadByte C a s).1]) (dmaReadByte C a s).2

/-- The beat in progress of a channel, if any, is ended. -/
def closeOpen (C : Config) (c : Channel) (o : Option OpenBeat) (s : State) : State :=
  match o with
  | none => s
  | some f => closeBeat C c f.left f.next f.bytes s

/-- The beats still in progress are ended, the primary's first. -/
def closeBeats (C : Config) (b : OpenBeats) (s : State) : State :=
  closeOpen C .secondary b.secondary (closeOpen C .primary b.primary s)

/-- A gap in which the channel `held`, if any, has no turn: the other agents take the turns the schedule gives them
there. -/
def gapWithout (C : Config) (held : Option Channel) (s : State) : Flow State :=
  andThen (gapTurns C held .empty s) fun r => .next (closeBeats C r.1 r.2)

/-- A gap: the other agents take the turns the schedule gives them there. -/
def gap (C : Config) (s : State) : Flow State := gapWithout C none s

/-- The `n` bytes of channel `c`'s own beat from address `a` on, in ascending order, read one by one (R82, R86), a gap
after each. -/
def beatBytes (C : Config) (c : Channel) :
    Nat → Nat → List Byte → OpenBeats → State → Flow (List Byte × OpenBeats × State)
  | 0, _, bytes, b, s => .next (bytes, b, s)
  | n + 1, a, bytes, b, s =>
    andThen (gapTurns C (some c) b (dmaReadByte C a s).2) fun r =>
      beatBytes C c n (a + 1) (bytes ++ [(dmaReadByte C a s).1]) r.1 r.2

/-- One beat of channel `c` as an operation (R169). -/
def beat (C : Config) (c : Channel) (s : State) : Flow State :=
  match beatRefusal c s with
  | some e => .refused e
  | none =>
    andThen (beatBytes C c (s.chan c).beat.toNat (s.chan c).saddr.toNat [] .empty s) fun r =>
      .next (closeBeats C r.2.1 (finishBeat c r.1 r.2.2))

/-- The sub-steps of an operation in order, a gap after each (R317; after the last one too, and after sub-steps that R317
does not list, which is a DESIGN CHOICE, notes/assumptions/25.md). -/
def inOrder (C : Config) : List (State → Flow State) → State → Flow State
  | [], s => .next s
  | f :: fs, s => andThen (f s) fun s' => andThen (gap C s') (inOrder C fs)

/-! ## Sequences of byte accesses (R81, R84, R317) -/

/-- `Flush(a, n)`: the dirty bytes of the range go back to `MEM`, ascending, one at a time (R84, R240). -/
def flushRange (C : Config) : Nat → Nat → State → Flow State
  | 0, _, s => .next s
  | n + 1, a, s => andThen (gap C (writeBack a s)) (flushRange C n (a + 1))

/-- Host writes of `value i, value (i + 1), …` to `n` successive bytes from `base + i` on, ascending, each byte written
separately (R81). -/
def storeRun (C : Config) (value : Nat → Byte) (base : Nat) : Nat → Nat → State → Flow State
  | 0, _, s => .next s
  | n + 1, i, s =>
    andThen (asPart (storeByte (base + i) (value i) s)) fun s' => andThen (gap C s') (storeRun C value base n (i + 1))

end Sys2Proof.Machine
end

