-- ==== Sys2Proof/Machine/ClockSynth.lean ====
section
/-! DEFINITION. The fractional-PLL clock synthesizer (spec/41_clock_synth.md): CLK_PROGRAM, PLL_LOCK, TWEAK. -/

namespace Sys2Proof.Machine

/-- R142: `x - floor(x) <= 1/2` decides between the two integers next to `x = target * P_POST_DIV * D / P_F_REF`: the
nearest one, and the smaller of two equally near. -/
def nearestProgram (C : Config) (target : Nat) : Nat :=
  let top := target * C.postDiv * C.denom0
  if 2 * (top % C.fRef) ≤ C.fRef then top / C.fRef else top / C.fRef + 1

/-- R142: the `K = d * D + n` of the search, in the closed form the rule gives: the nearest integer, clamped to the
reachable programs. -/
def searchK (C : Config) (target : Nat) : Nat :=
  min (max (nearestProgram C target) (C.divMin * C.denom0)) (C.divMax * C.denom0 + C.denom0 - 1)

/-- R142: the error `| P_F_REF * K - target * P_POST_DIV * D |` the search minimises. -/
def clockError (C : Config) (target k : Nat) : Nat :=
  ((C.fRef * k : Int) - (target * C.postDiv * C.denom0 : Int)).natAbs

/-- `ClkSearch` (R142): the integer divider and the fractional numerator. -/
def clkSearch (C : Config) (target : Nat) : Nat × Nat :=
  (searchK C target / C.denom0, searchK C target % C.denom0)

/-- R143: polls of the LOCK bit: one, and, while it reads 0, as many more as are left, with a gap before each, in which
other agents may step, PLL_LOCK among them. It answers what the last poll read. -/
def pollLock (C : Config) : Nat → State → Flow (Bool × State)
  | 0, s => .next (s.pllLocked, s)
  | left + 1, s => if s.pllLocked then .next (true, s) else andThen (gap C s) (pollLock C left)

/-- The draw `lock_ok` (R9, R143): the PLL locks within the polls, or leaves it to the turns of the gaps. -/
def drawLock (C : Config) (s : State) : State :=
  ({ s with draws := s.draws + 1 }).setPllLock (C.lockOk s.draws || s.pllLocked)

/-- The register writes of CLK_PROGRAM, in the order of R143: "DENOM is written before NUM". -/
def writeClockProgram (C : Config) (target : Nat) : List (State → Flow State) :=
  [ assign (·.setPllLock false),
    assign fun s => { s with pll := { s.pll with div := BitVec.ofNat 32 (clkSearch C target).1 } },
    assign fun s => { s with pll := { s.pll with denom := BitVec.ofNat 32 C.denom0 } },
    assign fun s => { s with pll := { s.pll with num := BitVec.ofNat 32 (clkSearch C target).2 } },
    assign (·.setPllEnable true) ]

/-- CLK_PROGRAM's body (R143), of exactly `P_LOCK_TIMEOUT` polls at most (R250). It answers whether it returned Ok; if not,
it raised CLOCK_LOCK_TIMEOUT. -/
def programClock (C : Config) (target : Nat) (s : State) : Flow (Bool × State) :=
  andThen (inOrder C (writeClockProgram C target) s) fun s' => pollLock C (C.lockTimeout - 1) (drawLock C s')

/-- CLK_PROGRAM (R143). -/
def clkProgram (C : Config) (target : Word) (s : State) : Result :=
  if s.idle then settle (andThen (programClock C target.toNat s) fun r => .next r.2) else .next s

/-- R150: the shift half of TWEAK: applied only if the result is in `0 .. P_SHIFT_MAX`. -/
def tweakShift (C : Config) (delta : Half) (s : State) : State :=
  let v : Int := (s.shift.toNat : Int) + s16 delta
  if 0 ≤ v ∧ v ≤ (C.shiftMax : Int) then { s with shift := BitVec.ofInt 32 v } else s

/-- R150: the clock half of TWEAK: applied only if the result keeps `0 <= NUM < DENOM`, `1 <= DENOM < 2^32`. -/
def tweakClock (numDelta denomDelta : Half) (s : State) : State :=
  let n : Int := (s.pll.num.toNat : Int) + s16 numDelta
  let d : Int := (s.pll.denom.toNat : Int) + s16 denomDelta
  if 1 ≤ d ∧ d < (2 : Int) ^ 32 ∧ 0 ≤ n ∧ n < d then
    { s with pll := { s.pll with denom := BitVec.ofInt 32 d, num := BitVec.ofInt 32 n } }
  else s

/-- TWEAK (R150): the two halves are independent; in IDLE it has no effect. -/
def tweak (C : Config) (shiftDelta numDelta denomDelta : Half) (s : State) : Result :=
  if s.running then .next (tweakClock numDelta denomDelta (tweakShift C shiftDelta s)) else .next s

/-- CLK_PROGRAM on the chip. -/
def execClkProgram (target : Word) (s : State) : Result := clkProgram Config.chip target s

/-- PLL_LOCK (R147). -/
def execPllLock (s : State) : Result := .next (lockPll s)

/-- TWEAK on the chip. -/
def execTweak (shiftDelta numDelta denomDelta : Half) (s : State) : Result :=
  tweak Config.chip shiftDelta numDelta denomDelta s

end Sys2Proof.Machine
end

