-- ==== Sys2Proof/Machine/ModeResolver.lean ====
section
/-! DEFINITION. The mode table and timing resolver (spec/40_mode_resolver.md): MODE_RESOLVE, FRAME_SIZE. -/

namespace Sys2Proof.Machine

/-- R123, R124: `trunc(budget * clkdiv_d / clkdiv_n)`, exact. -/
def borderOf (budget : Nat) (e : ModeEntry) : Nat := budget * e.clkdivD / e.clkdivN

/-- R123: 8 for a combined mode, 4 for a split mode (R27, R125). -/
def granularityOf (combine : Bool) : Nat := if combine then 8 else 4

/-- R123: STRIDE is the left border, the width and the right border. -/
def strideOf (C : Config) (e : ModeEntry) : Nat := borderOf C.backporchPix e + e.width + borderOf C.frontporchPix e

/-- R123: the checks an entry must pass, in the rule's order. -/
def entrySupported (C : Config) (e : ModeEntry) : Bool :=
  decide (e.clkdivN ≠ 0 ∧ e.clkdivD ≠ 0 ∧ e.width ≠ 0 ∧ e.height ≠ 0)
  && decide (strideOf C e % granularityOf e.combine = 0)
  && decide (e.shift0 ≤ C.shiftMax)
  && decide (e.topBlank + e.height * (if e.ld then 2 else 1) ≤ e.totalLines)
  && decide (strideOf C e ≤ 65535 ∧ e.width ≤ 32767 ∧ e.height ≤ 32767)
  && decide (strideOf C e * e.height + C.fbPad < 2 ^ 32)

/-- What MODE_RESOLVE returns (R123): mathematical integers (R310). -/
structure ResolvedMode where
  modeId : Byte
  width : Nat
  height : Nat
  stride : Nat
  ld : Bool
  combine : Bool
  shift0 : Nat
  clkdivN : Nat
  clkdivD : Nat
  lborder : Nat
  rborder : Nat
  totalLines : Nat
  topBlank : Nat
  gran : Nat
deriving DecidableEq, Repr

/-- R123: the VideoMode an entry resolves to. -/
def videoModeOf (C : Config) (mode : Byte) (e : ModeEntry) : ResolvedMode :=
  { modeId := mode, width := e.width, height := e.height, stride := strideOf C e, ld := e.ld, combine := e.combine
    shift0 := e.shift0, clkdivN := e.clkdivN, clkdivD := e.clkdivD, lborder := borderOf C.backporchPix e
    rborder := borderOf C.frontporchPix e, totalLines := e.totalLines, topBlank := e.topBlank
    gran := granularityOf e.combine }

/-- MODE_RESOLVE as a function (R123, R127): pure, without a draw. -/
def resolveMode (C : Config) (mode : Byte) : Option ResolvedMode :=
  match C.modeTable mode with
  | none => none
  | some e => if entrySupported C e then some (videoModeOf C mode e) else none

/-- R127: the clock target BEGIN derives, `trunc(P_PIX_REF_FREQ * CLKDIV_D / CLKDIV_N)`. -/
def clockTarget (C : Config) (m : ResolvedMode) : Nat := C.pixRefFreq * m.clkdivD / m.clkdivN

/-- R199: how many lines show a row, `HEIGHT * (1 + LD)`. -/
def ResolvedMode.visibleLines (m : ResolvedMode) : Nat := m.height * (if m.ld then 2 else 1)

/-- TOP_BLANK (R25): R27 (e) leaves room for the visible lines above it in 32 bits. -/
def ResolvedMode.heldTopBlank (C : Config) (m : ResolvedMode) : Word :=
  C.held 0x1B 0 (largestWord - m.visibleLines) m.topBlank

/-- TOTAL_LINES (R25): at least the lines that R27 (e) counts. -/
def ResolvedMode.heldTotalLines (C : Config) (m : ResolvedMode) : Word :=
  C.held 0x1A ((m.heldTopBlank C).toNat + m.visibleLines) largestWord m.totalLines

/-- R221 step 2: the VideoMode registers that hold a resolved mode (R25). The checks of R123 bound every number but
CLKDIV_N, CLKDIV_D, TOTAL_LINES and TOP_BLANK below 2^32; one of those that does not fit its register leaves a free value
in it, which obeys the laws of the register, R27 (e) among them (`Config.held`, notes/assumptions/3.md). -/
def ResolvedMode.registers (C : Config) (m : ResolvedMode) : VideoMode :=
  { modeId := zextByte m.modeId, width := BitVec.ofNat 32 m.width, height := BitVec.ofNat 32 m.height
    stride := BitVec.ofNat 32 m.stride, mflags := packMflags m.ld m.combine, shift0 := BitVec.ofNat 32 m.shift0
    clkdivN := C.held 0x16 1 largestWord m.clkdivN, clkdivD := C.held 0x17 1 largestWord m.clkdivD
    lborder := BitVec.ofNat 32 m.lborder, rborder := BitVec.ofNat 32 m.rborder
    totalLines := m.heldTotalLines C, topBlank := m.heldTopBlank C
    gran := BitVec.ofNat 32 m.gran }

/-- MODE_RESOLVE (R123): "it reads no register and writes none" (R120). Its result is `resolveMode`, which BEGIN
uses. -/
def execModeResolve (_mode : Byte) (s : State) : Result := .next s

/-- FRAME_SIZE (R128). -/
def execFrameSize (s : State) : Result := .next { s with result0 := s.mode.width, result1 := s.mode.height }

end Sys2Proof.Machine
end

