-- ==== Sys2Proof/Machine/DmaPipeline.lean ====
section
/-! DEFINITION. The DMA output pipeline and the framer (spec/42_dma_pipeline.md): DMA_CONFIGURE, DMA_ENABLE,
DMA_DISABLE, DMA_REPROGRAM, DMA_BEAT, SHIFT_OUT. -/

namespace Sys2Proof.Machine

/-- A write to channel `c`'s descriptor, as a sub-step. -/
def onChan (c : Channel) (f : State → Descriptor → Descriptor) : State → Flow State :=
  assign fun s => s.setChan c (f s (s.chan c))

/-- R167: the correction is a multiple of the granularity. -/
def State.shiftAligned (s : State) : Bool := s.shift.toNat % s.mode.gran.toNat == 0

/-- R167: the bytes of the secondary channel's beat: GRAN, or 1 when the correction is unaligned. -/
def State.secondaryBeat (s : State) : Word := if s.shiftAligned then s.mode.gran else 1

/-- R167: the secondary channel's beats per line: `STRIDE / g`, or STRIDE when the correction is unaligned. -/
def State.secondaryCount (s : State) : Word :=
  if s.shiftAligned then BitVec.ofNat 32 (s.mode.stride.toNat / s.mode.gran.toNat) else s.mode.stride

/-- The channel held in the gap between the writes of SADDR[1] and BEAT[1]: channel 1, where the beat size it has is not
the one about to be written. An overrun finds it armed there (R291), and a beat of the old size at the new address would be
misaligned, or would leave the later beats of the line misaligned, which R79 says "never occurs in a state reached by the
block's own operations". R317 says that DMA1 may act there: that it does not is a DESIGN CHOICE
(notes/assumptions/21.md). -/
def heldChannel (s : State) : Option Channel := if s.dma1.beat = s.secondaryBeat then none else some .secondary

/-- R167's writes of SADDR[1] and BEAT[1], and the gap between them. -/
def readdressSecondary (C : Config) (p : Word) (s : State) : Flow State :=
  let s1 := { s with dma1 := { s.dma1 with saddr := p + s.shift } }
  andThen (gapWithout C (heldChannel s1) s1) (onChan .secondary fun s d => { d with beat := s.secondaryBeat })

/-- The register writes of DMA_REPROGRAM, in the order of R167. -/
def reprogramWrites (C : Config) (p : Word) : List (State → Flow State) :=
  [ onChan .primary fun _ d => { d with saddr := p },
    readdressSecondary C p,
    onChan .secondary fun s d => { d with count := s.secondaryCount },
    assign fun s => s.setFlags unalignedBit (!s.shiftAligned),
    onChan .secondary fun _ d => { d with rem := d.count } ]

/-- DMA_REPROGRAM's body (R167), with the check R302 asks of a state built by hand. R31, R167 (f) and R177 have SADDR[1] -
SADDR[0] = SHIFT at the end of every DMA_REPROGRAM; R196 and R317 let a channel that an overrun finds armed take a beat
between the register writes, after which the equation fails. That the beat is allowed is a DESIGN CHOICE
(notes/assumptions/23.md). -/
def reprogram (C : Config) (p : Word) (s : State) : Flow State :=
  if s.granular then inOrder C (reprogramWrites C p) s else .refused .strideNotGranular

/-- DMA_REPROGRAM (R167): a step not taken before the VideoMode registers are written. -/
def dmaReprogram (C : Config) (p : Word) (s : State) : Result :=
  if s.modeWritten then settle (reprogram C p s) else .next s

/-- R163: what DMA_CONFIGURE writes to channel `c`. -/
def configureChan (c : Channel) : List (State → Flow State) :=
  [ onChan c fun _ d => { d with daddr := portNumber c },
    onChan c fun s d => { d with slast := 0 - s.mode.stride },
    onChan c fun _ d => d.setDreq true,
    onChan c fun _ d => d.setErq false,
    onChan c fun _ d => d.setDone false ]

/-- R163: the primary channel's geometry; the division is exact. -/
def configurePrimary : List (State → Flow State) :=
  [ onChan .primary fun s d => { d with beat := s.mode.gran },
    onChan .primary fun s d => { d with count := BitVec.ofNat 32 (s.mode.stride.toNat / s.mode.gran.toNat) },
    onChan .primary fun _ d => { d with rem := d.count } ]

/-- DMA_CONFIGURE's body (R163), with the check R302 asks of a state built by hand. -/
def configure (C : Config) (s : State) : Flow State :=
  if s.granular then
    inOrder C (configureChan .primary ++ configureChan .secondary ++ configurePrimary
      ++ [fun s => reprogram C s.fb.base s]) s
  else .refused .strideNotGranular

/-- R163's precondition: IDLE, the VideoMode registers written, a frame buffer allocated, both channels disarmed. -/
def configureEnabled (s : State) : Bool :=
  s.idle && s.modeWritten && s.fbValid && !s.dma0.erq && !s.dma1.erq

/-- DMA_CONFIGURE (R163). -/
def dmaConfigure (C : Config) (s : State) : Result :=
  if configureEnabled s then settle (configure C s) else .next s

/-- R165: the previous line is unfinished. -/
def State.overrun (s : State) : Bool :=
  s.frmActive || s.dma0.rem != s.dma0.count || s.dma0.erq || s.dma1.erq

/-- The writes of DMA_ENABLE, in the order of R165, the overrun having been found at its start. -/
def armWrites (overrun : Bool) : List (State → Flow State) :=
  [ assign (·.setStream .primary []),
    onChan .primary fun _ d => d.setDone false,
    onChan .primary fun _ d => d.setErq true,
    assign fun s => { s with frm := { s.frm with px := 0 } },
    assign fun s => { s with frm := s.frm.setCorrupt overrun },
    assign fun s => { s with frm := s.frm.setActive true },
    assign (·.setStream .secondary []),
    onChan .secondary fun _ d => d.setDone false,
    onChan .secondary fun _ d => d.setErq true ]

/-- DMA_ENABLE's body (R165). -/
def arm (C : Config) (s : State) : Flow State := inOrder C (armWrites s.overrun) s

/-- DMA_ENABLE (R165). -/
def dmaEnable (C : Config) (s : State) : Result := if s.running then settle (arm C s) else .next s

/-- DMA_DISABLE's body (R166): one indivisible step (R317). -/
def disarm (s : State) : State :=
  { s with
    dma0 := s.dma0.setErq false
    dma1 := s.dma1.setErq false
    frm := { ((s.frm.setActive false).setCorrupt false) with color := 0 }
    stream0 := []
    stream1 := [] }

/-- DMA_BEAT (R169). -/
def dmaBeat (C : Config) (c : Channel) (s : State) : Result :=
  if beatEnabled c s then settle (beat C c s) else .next s

/-- DMA_CONFIGURE on the chip. -/
def execDmaConfigure (s : State) : Result := dmaConfigure Config.chip s

/-- DMA_ENABLE on the chip. -/
def execDmaEnable (s : State) : Result := dmaEnable Config.chip s

/-- DMA_DISABLE (R166). -/
def execDmaDisable (s : State) : Result := .next (disarm s)

/-- DMA_REPROGRAM on the chip. -/
def execDmaReprogram (linePointer : Word) (s : State) : Result := dmaReprogram Config.chip linePointer s

/-- DMA_BEAT on the chip. -/
def execDmaBeat (c : Channel) (s : State) : Result := dmaBeat Config.chip c s

/-- SHIFT_OUT (R173) on the chip. -/
def execShiftOut (s : State) : Result := .next (pixelClock Config.chip s)

end Sys2Proof.Machine
end

