-- ==== Sys2Proof/Machine/ScanlineDriver.lean ====
section
/-! DEFINITION. The scanline driver (spec/43_scanline_driver.md): TMR_STEP, LINE_TICK, IRQ_MASK, IRQ_UNMASK; and
CACHE_FLUSH (spec/45_host_interface.md R240), a sub-step of LINE_TICK. -/

namespace Sys2Proof.Machine

/-- R195 step 1: both pending-compare flags are cleared. -/
def clearCompareFlags (s : State) : State := { s with tmr := (s.tmr.setCtrl 4 false).setCtrl 5 false }

/-- R195 step 2, R197: `LINE <- (LINE + 1) mod TOTAL_LINES`. -/
def advanceLine (s : State) : State :=
  { s with line := BitVec.ofNat 32 ((s.line.toNat + 1) % s.mode.totalLines.toNat) }

/-- R195 step 3, R198: VSYNC and FRAME_START are 1 on line 0 and 0 on every other line. This is the step of LINE_TICK at
which a pin may change, so its sample of the output (R34) is taken here (DESIGN CHOICE, notes/assumptions/22.md). -/
def markFrameStart (s : State) : State :=
  ((s.setFlags vsyncBit (s.line == 0)).setFlags frameStartBit (s.line == 0)).record

/-- The three sub-operations of R195 step 4, for the row at `p`. -/
def showRow (C : Config) (p : Word) : List (State → Flow State) :=
  [ reprogram C p, arm C, fun s => flushRange C s.mode.stride.toNat p.toNat s ]

/-- R195 steps 4 and 5: a visible line is reprogrammed, armed and flushed; a blanking line does nothing (R200). With
TOP_BLANK = 0 and more than one visible line, line 1 is visible by R199 and tick 1 arms the channels, where R205 has the
colour pins 0 until tick TOTAL_LINES: that R195 and R199 are followed is a DESIGN CHOICE (notes/assumptions/27.md). -/
def showLine (C : Config) (s : State) : Flow State :=
  match s.visibleRow with
  | some row => inOrder C (showRow C (BitVec.ofNat 32 (s.rowBase row))) s
  | none => .next s

/-- The steps 0 to 6 of R195. -/
def tickSteps (C : Config) : List (State → Flow State) :=
  [ assign takeLineInterrupt, assign clearCompareFlags, assign advanceLine, assign markFrameStart, showLine C,
    assign returnFromInterrupt ]

/-- LINE_TICK (R195). -/
def lineTick (C : Config) (s : State) : Result :=
  if s.tickEnabled then
    if s.mode.totalLines = 0 then .refused .noTotalLines else settle (inOrder C (tickSteps C) s)
  else .next s

/-- CACHE_FLUSH (R240): no precondition; `len = 0` does nothing. -/
def cacheFlush (C : Config) (len : Half) (addr : Word) (s : State) : Result :=
  settle (flushRange C (u16 len) addr.toNat s)

/-- TMR_STEP (R191). -/
def execTmrStep (s : State) : Result := .next (timerClock s)

/-- LINE_TICK on the chip. -/
def execLineTick (s : State) : Result := lineTick Config.chip s

/-- IRQ_MASK (R201): its precondition is that the mask is clear; a set mask is left set. -/
def execIrqMask (s : State) : Result := if s.irqMasked then .next s else .next (takeLineInterrupt s)

/-- IRQ_UNMASK (R202): its precondition is that the mask is set; a clear mask is left clear. -/
def execIrqUnmask (s : State) : Result := if s.irqMasked then .next (returnFromInterrupt s) else .next s

/-- CACHE_FLUSH on the chip. -/
def execCacheFlush (len : Half) (addr : Word) (s : State) : Result := cacheFlush Config.chip len addr s

/-- CACHE_EVICT (R241): a clean byte is left alone. -/
def execCacheEvict (addr : Word) (s : State) : Result := .next (evictByte addr s)

end Sys2Proof.Machine
end

