-- ==== Sys2Proof/Machine/HostInterface.lean ====
section
/-! DEFINITION. The host interface (spec/45_host_interface.md): BEGIN, END, ROW_POINTER, GET_PIXEL, SET_PIXEL, the row
writers, FB_LOAD, FB_STORE, FB_ALLOC, FB_FREE. -/

namespace Sys2Proof.Machine

/-! ## Allocation (R236 to R238) -/

/-- R237: the size of the allocation, `STRIDE * HEIGHT + P_FB_PAD`. -/
def fbBytes (C : Config) (s : State) : Nat := s.mode.stride.toNat * s.mode.height.toNat + C.fbPad

/-- FB_ALLOC's body (R237). A grant makes the bytes of the new allocation unspecified in `MEM` (R73); dirty bytes in
`CACHE` stay. -/
def allocate (C : Config) (s : State) : State :=
  match C.allocDraw s.draws (fbBytes C s) with
  | none => { s with draws := s.draws + 1 }
  | some a =>
    { s with
      fb := { base := BitVec.ofNat 32 a, size := BitVec.ofNat 32 (fbBytes C s), ctrl := setFlag s.fb.ctrl 0 true }
      mem := memEraseRange s.mem a (fbBytes C s)
      epoch := s.epoch + 1
      draws := s.draws + 1 }

/-- FB_ALLOC (R237): a step not taken while a buffer is allocated or before the VideoMode registers are written. -/
def fbAlloc (C : Config) (s : State) : Result :=
  if s.fbValid || !s.modeWritten then .next s else .next (allocate C s)

/-- FB_FREE's body (R238): `MEM` and `CACHE` are not changed. -/
def release (s : State) : State :=
  { s with fb := { base := 0, size := 0, ctrl := setFlag s.fb.ctrl 0 false } }

/-- FB_FREE (R238): "must not be freed while DMA is enabled". -/
def fbFree (s : State) : Result := if s.dma0.erq || s.dma1.erq then .next s else .next (release s)

/-! ## BEGIN and END (R220 to R223) -/

/-- R221 step 2: the VideoMode registers, and SHIFT from SHIFT0. -/
def loadMode (C : Config) (m : ResolvedMode) (s : State) : State :=
  { s with mode := m.registers C, shift := BitVec.ofNat 32 m.shift0 }

/-- R222, R223: the PLL's registers return to their reset values. -/
def pllOff (s : State) : State := { s with pll := Pll.off }

/-- R222, R223: registers 0x10 to 0x1D to 0. -/
def clearMode (s : State) : State := { s with mode := VideoMode.zero, shift := 0 }

/-- R222, R223: the descriptor registers to 0. -/
def clearDescriptors (s : State) : State := { s with dma0 := Descriptor.zero, dma1 := Descriptor.zero }

/-- A failed BEGIN after its step 2: `rollback` (R222), then the result code, with a gap after each part of it. DESIGN CHOICE
(notes/assumptions/25.md): R317 lists BEGIN's numbered steps and does not say whether the other agents may act between the
parts of `rollback`. -/
def failBegin (C : Config) (code : Word) : State → Flow State :=
  inOrder C
    [ assign disarm, assign pllOff, fun s => if s.fbValid then asPart (fbFree s) else .next s, assign clearMode,
      assign clearDescriptors, assign (reportFailure code) ]

/-- R221 step 7: the line counter, the flags, the timer armed at the start of a low phase, and RUNNING. -/
def startTimer (C : Config) (s : State) : State :=
  { s with
    line := 0
    flags := setFlag (setFlag (setFlag s.flags frameStartBit false) vsyncBit false) irqMaskBit false
    tmr :=
      { cnt := 0, cmp1 := C.held 0x31 1 largestWord C.hsLow, cmp2 := C.held 0x32 1 largestWord C.hsRest, ctrl := 3 }
    stateReg := 1 }

/-- R221 steps 5 to 8, after a grant: zero fill, descriptors, timer, OK. -/
def finishBegin (C : Config) : State → Flow State :=
  inOrder C
    [ fun s => storeRun C (fun _ => 0) s.fb.base.toNat s.fb.size.toNat 0 s, configure C, assign (startTimer C),
      assign (report codeOk) ]

/-- R221 step 4 and what follows, after a successful CLK_PROGRAM. The gap between a failed FB_ALLOC and `rollback`, inside
step 4, is a DESIGN CHOICE (notes/assumptions/25.md): R317 lists the numbered steps only. -/
def beginBuffer (C : Config) (s : State) : Flow State :=
  if s.fbValid then .refused .alreadyAllocated
  else
    let s' := allocate C s
    if s'.fbValid then andThen (gap C s') (finishBegin C)
    else andThen (gap C s') (failBegin C codeAllocationFailed)

/-- R221 steps 2 to 8, for a resolved mode. The gap between a failed CLK_PROGRAM and `rollback`, inside step 3, is a DESIGN
CHOICE (notes/assumptions/25.md): R317 lists the numbered steps only. -/
def beginWith (C : Config) (m : ResolvedMode) (s : State) : Flow State :=
  andThen (gap C (loadMode C m s)) fun s2 =>
    andThen (programClock C (clockTarget C m) s2) fun r =>
      andThen (gap C r.2) (if r.1 then beginBuffer C else failBegin C codeClockLockTimeout)

/-- BEGIN (R221, R222, R250). -/
def beginMode (C : Config) (mode : Byte) (s : State) : Result :=
  if !s.idle then .refused .beginWhileRunning
  else
    match resolveMode C mode with
    | none => .next (reportFailure codeModeUnsupported s)
    | some m =>
      if clockTarget C m < 2 ^ 32 then settle (beginWith C m s) else .next (reportFailure codeModeUnsupported s)

/-- R223 step 1: no further compare event, no further tick. -/
def stopTimer (s : State) : State := { s with tmr := (s.tmr.setCtrl 1 false).setCtrl 0 false }

/-- R223 step 5: the timer, LINE, FLAGS, the VideoMode registers, the descriptors and FRM_PX to their reset values. -/
def clearRegisters (s : State) : State :=
  { s with
    tmr := LineTimer.stopped, line := 0, flags := 0
    mode := VideoMode.zero, shift := 0, dma0 := Descriptor.zero, dma1 := Descriptor.zero
    frm := { s.frm with px := 0 } }

/-- R223 step 6. -/
def enterIdle (s : State) : State := { s with stateReg := 0 }

/-- END (R223): the six steps in order; in IDLE nothing. -/
def endMode (C : Config) (s : State) : Result :=
  if s.idle then .next s
  else
    settle (inOrder C
      [ assign stopTimer, assign disarm, assign pllOff, fun s => asPart (fbFree s), assign clearRegisters,
        assign enterIdle ] s)

/-! ## Buffer access (R225 to R234) -/

/-- ROW_POINTER (R225): `Win + STRIDE * y`, or a null pointer. -/
def rowPointer (y : Half) (s : State) : State :=
  { s with
    result0 := if s.running && s.yInside y then BitVec.ofNat 32 (s.pixAddr 0 (s16 y).toNat) else 0 }

/-- GET_PIXEL (R226): 0 out of range; "ignored, not clamped" (D21). -/
def getPixel (C : Config) (x y : Half) (s : State) : Result :=
  if s.pixelInside x y then loadByte C (s.pixAddr (s16 x).toNat (s16 y).toNat) s
  else .next { s with result0 := 0 }

/-- SET_PIXEL (R227): nothing is written out of range. -/
def setPixel (x y : Half) (v : Byte) (s : State) : Result :=
  if s.pixelInside x y then storeByte (s.pixAddr (s16 x).toNat (s16 y).toNat) v s else .next s

/-- R228: the source element of destination pixel `k`: `floor(k * n / WIDTH)`. -/
def sourceIndex (n width k : Nat) : Nat := k * n / width

/-- R228: the converted byte of destination pixel `k`. -/
def rowByte {α : Type} [Inhabited α] (conv : α → Byte) (src : List α) (n width k : Nat) : Byte :=
  conv (src.getD (sourceIndex n width k) default)

/-- `WRITE_ROW(conv, y, n, src)` (R228): the whole visible row, or nothing. -/
def writeRow {α : Type} [Inhabited α] (C : Config) (conv : α → Byte) (y n : Half) (src : List α) (s : State) : Result :=
  if s.running && s.yInside y && decide (1 ≤ u16 n) then
    settle
      (storeRun C (rowByte conv src (u16 n) s.mode.width.toNat) (s.pixAddr 0 (s16 y).toNat) s.mode.width.toNat 0 s)
  else .next s

/-- BEGIN on the chip. -/
def execBeginMode (mode : Byte) (s : State) : Result := beginMode Config.chip mode s

/-- END on the chip. -/
def execEndMode (s : State) : Result := endMode Config.chip s

/-- ROW_POINTER (R225). -/
def execRowPointer (y : Half) (s : State) : Result := .next (rowPointer y s)

/-- GET_PIXEL on the chip. -/
def execGetPixel (x y : Half) (s : State) : Result := getPixel Config.chip x y s

/-- SET_PIXEL (R227). -/
def execSetPixel (x y : Half) (v : Byte) (s : State) : Result := setPixel x y v s

/-- WRITE_ROW_NATIVE (R229): no conversion. -/
def execWriteRowNative (y n : Half) (src : List Byte) (s : State) : Result := writeRow Config.chip id y n src s

/-- WRITE_ROW_PAL8 (R230): through the palette `P_PAL`. -/
def execWriteRowPal8 (y n : Half) (src : List Byte) (s : State) : Result :=
  writeRow Config.chip Config.chip.pal y n src s

/-- WRITE_ROW_RGB565 (R231): through the conversion `P_CONV565`. -/
def execWriteRowRgb565 (y n : Half) (src : List Half) (s : State) : Result :=
  writeRow Config.chip Config.chip.conv565 y n src s

/-- FB_LOAD (R233): through the raw pointer; refused outside the frame buffer (R92). -/
def execFbLoad (addr : Word) (s : State) : Result := loadByte Config.chip addr.toNat s

/-- FB_STORE (R234): through the raw pointer; refused outside the frame buffer (R92). -/
def execFbStore (v : Byte) (addr : Word) (s : State) : Result := storeByte addr.toNat v s

/-- FB_ALLOC on the chip. -/
def execFbAlloc (s : State) : Result := fbAlloc Config.chip s

/-- FB_FREE (R238). -/
def execFbFree (s : State) : Result := fbFree s

end Sys2Proof.Machine
end

