-- ==== Sys2Proof/Machine/Sync.lean ====
section
/-! DEFINITION. The synchronization primitives and the register read (spec/44_sync.md): WAIT_VSYNC, WAIT_LINE, RDREG;
and NOP (spec/45_host_interface.md R242). A wait is a hold (R210): HOST samples the condition at each of its moves, and
while it is false the operation stays pending and HOST issues nothing else. -/

namespace Sys2Proof.Machine

/-- `hold until C` (R13, R210), one sample: the wait is over if the condition is true, and pending if not. -/
def holdUntil (condition : Bool) (i : Instr) (s : State) : State :=
  { s with pending := if condition then none else some i }

/-- WAIT_VSYNC (R211): "the operation changes no state". -/
def execWaitVsync (s : State) : Result := .next (holdUntil s.frameStart .waitVsync s)

/-- WAIT_LINE (R212): the test is equality. -/
def execWaitLine (n : Half) (s : State) : Result :=
  .next (holdUntil (decide (s.line.toNat = u16 n)) (.waitLine n) s)

/-- RDREG (R214): the value read is the one before the write. -/
def execRdreg (reg : Byte) (s : State) : Result := .next { s with result0 := readRegister s reg }

/-- NOP (R242, R107). -/
def execNop (s : State) : Result := .next s

end Sys2Proof.Machine
end

