-- ==== Sys2Proof/Machine/Dispatch.lean ====
section
/-! DEFINITION. The dispatch: one arm per operation of spec/30_encoding.md R104, each one direct call of its meaning. -/

namespace Sys2Proof.Machine

def exec (i : Instr) (s : State) : Host.Outcome State Fault Refusal :=
  match i with
  | .nop => Sys2Proof.Machine.execNop s
  | .beginMode mode => Sys2Proof.Machine.execBeginMode mode s
  | .endMode => Sys2Proof.Machine.execEndMode s
  | .tweak shiftDelta numDelta denomDelta => Sys2Proof.Machine.execTweak shiftDelta numDelta denomDelta s
  | .waitVsync => Sys2Proof.Machine.execWaitVsync s
  | .waitLine n => Sys2Proof.Machine.execWaitLine n s
  | .frameSize => Sys2Proof.Machine.execFrameSize s
  | .rowPointer y => Sys2Proof.Machine.execRowPointer y s
  | .getPixel x y => Sys2Proof.Machine.execGetPixel x y s
  | .setPixel x y v => Sys2Proof.Machine.execSetPixel x y v s
  | .writeRowNative y n src => Sys2Proof.Machine.execWriteRowNative y n src s
  | .writeRowPal8 y n src => Sys2Proof.Machine.execWriteRowPal8 y n src s
  | .writeRowRgb565 y n src => Sys2Proof.Machine.execWriteRowRgb565 y n src s
  | .fbLoad addr => Sys2Proof.Machine.execFbLoad addr s
  | .fbStore v addr => Sys2Proof.Machine.execFbStore v addr s
  | .rdreg reg => Sys2Proof.Machine.execRdreg reg s
  | .modeResolve mode => Sys2Proof.Machine.execModeResolve mode s
  | .clkProgram target => Sys2Proof.Machine.execClkProgram target s
  | .pllLock => Sys2Proof.Machine.execPllLock s
  | .dmaConfigure => Sys2Proof.Machine.execDmaConfigure s
  | .dmaEnable => Sys2Proof.Machine.execDmaEnable s
  | .dmaDisable => Sys2Proof.Machine.execDmaDisable s
  | .dmaReprogram linePointer => Sys2Proof.Machine.execDmaReprogram linePointer s
  | .dmaBeat c => Sys2Proof.Machine.execDmaBeat c s
  | .shiftOut => Sys2Proof.Machine.execShiftOut s
  | .tmrStep => Sys2Proof.Machine.execTmrStep s
  | .lineTick => Sys2Proof.Machine.execLineTick s
  | .irqMask => Sys2Proof.Machine.execIrqMask s
  | .irqUnmask => Sys2Proof.Machine.execIrqUnmask s
  | .cacheFlush len addr => Sys2Proof.Machine.execCacheFlush len addr s
  | .fbAlloc => Sys2Proof.Machine.execFbAlloc s
  | .fbFree => Sys2Proof.Machine.execFbFree s
  | .cacheEvict addr => Sys2Proof.Machine.execCacheEvict addr s

end Sys2Proof.Machine
end

