-- ==== Sys2Proof/Machine/Turns.lean ====
section
/-! DEFINITION. Whose move is next, and what it does (spec/00_scope.md R7, R8): HOST takes a word from the CMD port or
samples the wait it is held in; an agent of the block performs an internal-class word; the RESET pin resets
(R280; inside an operation it acts in a gap, Machine/Agents.lean). -/

namespace Sys2Proof.Machine

/-- HOST takes the next command word (R100). An illegal word is ignored (R106); a row writer whose payload is not all
on the DATA port yet is not taken yet (R103). DESIGN CHOICE (notes/assumptions/6.md): an illegal word takes nothing from
the DATA port, so elements presented with an illegal row-writer word stay there for the next row writer. -/
def takeCommand (s : State) : Result :=
  match s.cmd with
  | [] => .next s
  | w :: rest =>
    if s.irqMasked then .refused .hostInsideInterrupt
    else
      match decodeHost w s.data with
      | .ok (i, data) => exec i { s with cmd := rest, data := data }
      | .error .payloadIncomplete => .next s
      | .error _ => .next { s with cmd := rest }

/-- A move of HOST: it samples the wait it is held in (R210), which it cannot while the interrupt routine's atomic
section is open (R88), or takes the next command word. -/
def hostMove (s : State) : Result :=
  match s.pending with
  | some i => if s.irqMasked then .next s else exec i s
  | none => takeCommand s

/-- A move of an agent of the block: the operation its internal-class word stands for (R7, R104). -/
def agentMove (w : Command) (s : State) : Result :=
  match decodeInternal w with
  | .ok i => exec i s
  | .error _ => .refused .notAnInternalWord

/-- The next move: the head of the schedule, or HOST's where the schedule ends. -/
def nextMove (s : State) : Result :=
  match s.agenda with
  | [] => hostMove s
  | .host :: rest => hostMove { s with agenda := rest }
  | .agent w :: rest => agentMove w { s with agenda := rest }
  | .reset :: rest => .next (resetEvent { s with agenda := rest })

/-- The word at the head of the CMD port, HOST free to take it on the next move: no wait pending, no mask (R88, R100). -/
def presentCommand (w : Command) (data : List Half) (s : State) : State :=
  { s with
    cmd := w :: s.cmd, data := data ++ s.data, pending := none, agenda := .host :: s.agenda
    flags := setFlag s.flags irqMaskBit false }

/-- An internal-class word for the next move of the schedule. -/
def presentStep (w : Command) (s : State) : State := { s with agenda := .agent w :: s.agenda }

end Sys2Proof.Machine
end

