-- ==== Sys2Proof/Machine/Step.lean ====
section
/-! DEFINITION. One step of the block: the next move of the schedule; and where the step finds an opcode-table word. -/

namespace Sys2Proof.Machine

/-- One step. -/
def step (s : State) : Host.Outcome State Fault Refusal := nextMove s

/-- `s` with the numbered bits of an opcode-table row where the next step takes its operation from: an internal-class
word as the next move of the schedule, any other word at the head of the CMD port with its payload on the DATA port and
HOST to move (notes/assumptions/8.md). -/
def State.withFetchWord (s : State) (nbits w : Nat) : State :=
  if internalClassWord (tableWord nbits w) then presentStep (tableWord nbits w) s
  else presentCommand (tableWord nbits w) (tableData nbits w) s

end Sys2Proof.Machine
end

