-- ==== Sys2Proof/Machine/Pins.lean ====
section
/-! DEFINITION. The output pins and the observable output (spec/10_state.md R34), and the frequency of the pixel clock
(R28, spec/41_clock_synth.md R141). Pins and frequency are functions of the registers, not state of their own (R20). -/

namespace Sys2Proof.Machine

/-- The levels of the output pins (R34). -/
structure Pins where
  hsync : Bool
  vsync : Bool
  color : Byte
deriving DecidableEq, Repr

/-- R34: the pin levels of a sample: VSYNC is at `P_VSYNC_ACTIVE` while FLAGS.VSYNC is 1, and at the other level while it
is 0. -/
def Sample.pins (C : Config) (x : Sample) : Pins :=
  { hsync := x.hsync, vsync := if x.vsync then C.vsyncActive else !C.vsyncActive, color := x.color }

/-- R34: HSYNC is TMR_CTRL.OUT. -/
def hsyncPin (s : State) : Bool := s.tmrOut

/-- R34: the output pins now. -/
def pins (C : Config) (s : State) : Pins := s.sample.pins C

/-- R34: the observable output: the sequence of values taken by (HSYNC, VSYNC, COLOR) over the steps TMR_STEP, LINE_TICK
and SHIFT_OUT, from the first on, and the RESULT registers. -/
structure Observable where
  sequence : List Pins
  result0 : Word
  result1 : Word
deriving DecidableEq, Repr

/-- R34: what has been observable so far. -/
def observable (C : Config) (s : State) : Observable :=
  { sequence := (s.shown.map (Sample.pins C)).reverse, result0 := s.result0, result1 := s.result1 }

/-- R28, R141: the frequency of PIXCLK in Hz as a fraction, `P_F_REF * (PLL_DIV + PLL_NUM / PLL_DENOM) / P_POST_DIV`;
unspecified while the PLL is not enabled or not locked. It is the settled frequency: the spec says nothing of the
transient between a TWEAK's write and the PLL settling (R151, R90 (b), U5: any value), which the model does not hold, so
that the new registers give the new frequency at once. DESIGN CHOICE (notes/assumptions/24.md). "No rule of the model
reads a frequency" (R141). -/
def pixelFrequency (C : Config) (s : State) : Option (Nat × Nat) :=
  if s.pllEnabled && s.pllLocked then
    some (C.fRef * (s.pll.div.toNat * s.pll.denom.toNat + s.pll.num.toNat), s.pll.denom.toNat * C.postDiv)
  else none

end Sys2Proof.Machine
end

