-- ==== Sys2Proof/Safety.lean ====
section
/-! DEFINITION. What counts as a safe outcome and a legal state, in the terms the statements use: the invariants the
spec states of the registers and memory (spec/10_state.md R21, R23 to R28, R32; spec/42_dma_pipeline.md R176;
spec/43_scanline_driver.md R198). -/

namespace Sys2Proof.Machine

/-- An operation is carried out: it answers a next state. -/
def Completes (r : Result) : Prop := ∃ t, r = .next t

/-- No other agent steps in the gaps of the coming operations: each of them is performed as one step. -/
def State.quiet (s : State) : Prop := s.gaps = []

/-- No RESET event falls into the gaps of the coming operations (R280): none of them is abandoned. -/
def State.noReset (s : State) : Prop := ∀ ts ∈ s.gaps, Turn.reset ∉ ts

/-- R21: STATE is IDLE or RUNNING; "Values 2 and 3 are never written", its other bits are zero. -/
def legalController (s : State) : Prop := s.stateReg = 0 ∨ s.stateReg = 1

/-- R21, R24, R25, R28 to R30, R32, R33: the reserved bits of every control register are zero. -/
def reservedZero (s : State) : Prop :=
  s.stateReg &&& ~~~(0x3 : Word) = 0 ∧ s.flags &&& ~~~(0xF : Word) = 0 ∧ s.mode.mflags &&& ~~~(0x3 : Word) = 0
  ∧ s.pll.ctrl &&& ~~~(0x80000001 : Word) = 0 ∧ s.tmr.ctrl &&& ~~~(0x3F : Word) = 0
  ∧ s.dma0.dcsr &&& ~~~(0x7 : Word) = 0 ∧ s.dma1.dcsr &&& ~~~(0x7 : Word) = 0
  ∧ s.fb.ctrl &&& ~~~(0x1 : Word) = 0 ∧ s.frm.ctrl &&& ~~~(0x3 : Word) = 0 ∧ s.frm.color &&& ~~~(0xFF : Word) = 0

/-- R72: both maps are in their canonical form. -/
def memoryCanonical (s : State) : Prop := s.mem.wf ∧ s.cache.wf

/-- R25, R27: what holds of the VideoMode registers while RUNNING. -/
def modeLegal (C : Config) (s : State) : Prop :=
  s.running = true →
    (∃ mode : Byte, s.mode.modeId = zextByte mode ∧ (C.modeTable mode).isSome = true)
    ∧ s.mode.stride.toNat = s.mode.lborder.toNat + s.mode.width.toNat + s.mode.rborder.toNat
    ∧ s.mode.width.toNat ≤ s.mode.stride.toNat
    ∧ s.mode.stride.toNat % s.mode.gran.toNat = 0
    ∧ s.mode.gran = (if s.mode.combine then 8 else 4)
    ∧ s.mode.topBlank.toNat + s.mode.height.toNat * (if s.mode.ld then 2 else 1) ≤ s.mode.totalLines.toNat
    ∧ 1 ≤ s.mode.width.toNat ∧ 1 ≤ s.mode.height.toNat ∧ s.mode.shift0.toNat ≤ C.shiftMax
    ∧ 1 ≤ s.mode.clkdivN.toNat ∧ 1 ≤ s.mode.clkdivD.toNat ∧ 1 ≤ s.mode.totalLines.toNat

/-- R23: "Value range while RUNNING: 0 <= r[LINE] < r[TOTAL_LINES]". -/
def lineInRange (s : State) : Prop := s.running = true → s.line.toNat < s.mode.totalLines.toNat

/-- R26: SHIFT lies in `0 .. P_SHIFT_MAX`. -/
def shiftInRange (C : Config) (s : State) : Prop := s.shift.toNat ≤ C.shiftMax

/-- R28: `PLL_NUM < PLL_DENOM` at all times, and the divider in its range while the PLL is enabled. -/
def pllLegal (C : Config) (s : State) : Prop :=
  s.pll.num.toNat < s.pll.denom.toNat
  ∧ (s.pllEnabled = true → C.divMin ≤ s.pll.div.toNat ∧ s.pll.div.toNat ≤ C.divMax)

/-- R32: an allocated frame buffer is aligned and does not wrap. -/
def bufferLegal (C : Config) (s : State) : Prop :=
  s.fbValid = true → s.fb.base.toNat % C.fbAlign = 0 ∧ s.fb.base.toNat + s.fb.size.toNat ≤ 2 ^ 32

/-- R198: "FRAME_START equals VSYNC at all times". -/
def syncFlagsAgree (s : State) : Prop := s.frameStart = s.vsync

/-- R176: with no line in progress every colour pin is low. -/
def idleIsBlack (s : State) : Prop := s.frmActive = false → s.frm.color = 0

/-- The registers of a legal state. -/
structure RegistersLegal (C : Config) (s : State) : Prop where
  controller : legalController s
  reserved : reservedZero s
  mode : modeLegal C s
  line : lineInRange s
  shift : shiftInRange C s
  pll : pllLegal C s
  buffer : bufferLegal C s
  sync : syncFlagsAgree s
  black : idleIsBlack s

/-- What the steps of TMR, PLL, FRM, CACHE and the DMA channels leave alone (R7, R41): every register but the timer's,
PLL_CTRL's LOCK, the two descriptors and the framer's; and the host's view of the ports. -/
structure AgentFrame (s t : State) : Prop where
  stateReg : t.stateReg = s.stateReg
  result0 : t.result0 = s.result0
  result1 : t.result1 = s.result1
  line : t.line = s.line
  flags : t.flags = s.flags
  mode : t.mode = s.mode
  shift : t.shift = s.shift
  pllDiv : t.pll.div = s.pll.div
  pllNum : t.pll.num = s.pll.num
  pllDenom : t.pll.denom = s.pll.denom
  pllEnabled : t.pllEnabled = s.pllEnabled
  cmp1 : t.tmr.cmp1 = s.tmr.cmp1
  cmp2 : t.tmr.cmp2 = s.tmr.cmp2
  fb : t.fb = s.fb
  epoch : t.epoch = s.epoch
  cmd : t.cmd = s.cmd
  data : t.data = s.data
  pending : t.pending = s.pending
  agenda : t.agenda = s.agenda

/-! ## Terms of the statements -/

/-- R222, R223, R42: every register but RESULT0 and RESULT1 holds its reset value, and both streams are empty. -/
structure RegistersAtReset (s : State) : Prop where
  stateReg : s.stateReg = 0
  line : s.line = 0
  flags : s.flags = 0
  mode : s.mode = VideoMode.zero
  shift : s.shift = 0
  pll : s.pll = Pll.off
  tmr : s.tmr = LineTimer.stopped
  dma0 : s.dma0 = Descriptor.zero
  dma1 : s.dma1 = Descriptor.zero
  fb : s.fb = FrameBuffer.none
  frm : s.frm = Framer.idle
  stream0 : s.stream0 = []
  stream1 : s.stream1 = []

/-- R226, R227: RUNNING, `0 <= x < WIDTH` and `0 <= y < HEIGHT`, the coordinates signed. -/
def State.pixelInRange (s : State) (x y : Half) : Prop :=
  s.running = true ∧ 0 ≤ x.toInt ∧ x.toInt < s.mode.width.toNat ∧ 0 ≤ y.toInt ∧ y.toInt < s.mode.height.toNat

/-- R225, R228: RUNNING and `0 <= y < HEIGHT`, the coordinate signed. -/
def State.rowInRange (s : State) (y : Half) : Prop :=
  s.running = true ∧ 0 ≤ y.toInt ∧ y.toInt < s.mode.height.toNat

/-- R74: the frame buffer of a running mode: allocated, of `STRIDE * HEIGHT + P_FB_PAD` bytes, below 2^32. -/
def bufferCovers (C : Config) (s : State) : Prop :=
  s.fbValid = true ∧ s.fb.size.toNat = s.mode.stride.toNat * s.mode.height.toNat + C.fbPad
    ∧ s.fb.base.toNat + s.fb.size.toNat ≤ 2 ^ 32

/-- R250: the code BEGIN reports from a state in which the gaps are quiet: mode first, then clock, then allocation. -/
def beginCode (C : Config) (mode : Byte) (s : State) : Word :=
  match resolveMode C mode with
  | none => codeModeUnsupported
  | some m =>
    if 2 ^ 32 ≤ clockTarget C m then codeModeUnsupported
    else if C.lockOk s.draws then
      match C.allocDraw (s.draws + 1) (m.stride * m.height + C.fbPad) with
      | none => codeAllocationFailed
      | some _ => codeOk
    else codeClockLockTimeout

/-- After a whole operation, the next one. -/
def thenRun (r : Result) (f : State → Result) : Result :=
  match r with
  | .next s => f s
  | .fault e => .fault e
  | .refused e => .refused e

/-- The operation `f`, `n` times in a row. -/
def times (f : State → Result) : Nat → State → Result
  | 0, s => .next s
  | n + 1, s => thenRun (f s) (times f n)

/-- Beats of the two channels in a row, in the order of the list. -/
def runBeats : List Channel → State → Result
  | [], s => .next s
  | c :: cs, s => thenRun (exec (.dmaBeat c) s) (runBeats cs)

/-- R163, R167, R165: channel `c` at the start of a line: all its beats left, a line of STRIDE bytes, rewound by SLAST,
disarmed on completion and not yet complete. -/
structure AtLineStart (s : State) (c : Channel) : Prop where
  beat : 0 < (s.chan c).beat.toNat
  count : 0 < (s.chan c).count.toNat
  rem : (s.chan c).rem = (s.chan c).count
  stride : (s.chan c).beat.toNat * (s.chan c).count.toNat = s.mode.stride.toNat
  slast : (s.chan c).slast = 0 - s.mode.stride
  dreq : (s.chan c).dreq = true
  done : (s.chan c).done = false

/-- The test-bench macro TICK of R111: the harness raises the pending flag, then LINE_TICK. -/
def simulatedTick (s : State) : Result := exec .lineTick { s with tmr := s.tmr.setCtrl 4 true }

end Sys2Proof.Machine
end

