-- ==== Sys2Proof/Certificates/Slice0/Obligations.lean ====
section
/-! DEFINITION. The statements for the provers, each a `Prop` that formalises rules of spec/. "Quiet" means that the
schedule gives the other agents no turn in the gaps of the operation (R8, R317); a statement without it holds for every
schedule. "No RESET in the gaps" means that the RESET event does not abandon the operation (R280). Statements over
`C : Config` hold for every legal choice of the open parameters and draws; the operations of `exec` run with one such
choice, `Config.chip`. -/

open Sys2Proof
open Sys2Proof.Machine

/-! ## Encoding (spec/30_encoding.md) -/

/-- R100 to R104: the words of a well-formed operation decode to it, and what follows its payload on the DATA port is
left there. Which lines of a DATA element carry a byte is the model's choice (notes/assumptions/5.md). -/
def Obligations.DecodeOfEncode : Prop :=
  ∀ (i : Instr) (rest : List Half), i.wellFormed = true →
    decode (encodeWord i) (encodePayload i ++ rest) = .ok (i, rest)

/-- R100, R103, R104: a word that decodes has Z = 0 and its operation's OP, the operation is well formed, and exactly its
payload is taken from the DATA port. -/
def Obligations.DecodedWordMatches : Prop :=
  ∀ (w : Command) (data rest : List Half) (i : Instr), decode w data = .ok (i, rest) →
    fieldZ w = 0 ∧ fieldOp w = opcode i ∧ i.wellFormed = true ∧ rest = data.drop (encodePayload i).length

/-- R105: with Z = 0, the opcodes 0x00 to 0x0F and 0x40 to 0x50, and no others, are operations. -/
def Obligations.AssignedOpcodes : Prop :=
  ∀ (w : Command) (data : List Half), fieldZ w = 0 →
    (((fieldOp w).toNat ≤ 0x0F ∨ (0x40 ≤ (fieldOp w).toNat ∧ (fieldOp w).toNat ≤ 0x50)) ↔
      ((∃ i rest, decode w data = .ok (i, rest)) ∨ decode w data = .error .payloadIncomplete))

/-- R112: each of the rule's worked encodings decodes to its operation; then four words of spec/95_test_vectors.md, one of
each operand form the rule has no example of. That a byte of a payload is the low eight lines of its element is the
model's choice (notes/assumptions/5.md). -/
def Obligations.WorkedEncodings : Prop :=
  decode 0x0100000000000000 [] = .ok (.beginMode 0, [])
    ∧ decode 0x0200000000000000 [] = .ok (.endMode, [])
    ∧ decode 0x0300000100000000 [] = .ok (.tweak 1 0 0, [])
    ∧ decode 0x0300FFFF00000000 [] = .ok (.tweak (-1) 0 0, [])
    ∧ decode 0x0500000000000203 [] = .ok (.waitLine 515, [])
    ∧ decode 0x09000003000200E0 [] = .ok (.setPixel 3 2 0xE0, [])
    ∧ decode 0x0800FFFF00000000 [] = .ok (.getPixel (-1) 0, [])
    ∧ decode 0x0F00000000000003 [] = .ok (.rdreg 0x03, [])
    ∧ decode 0x0E00007F20200030 [] = .ok (.fbStore 0x7F 0x20200030, [])
    ∧ decode 0x4A00000000000000 [] = .ok (.lineTick, [])
    ∧ decode 0x4700000000000001 [] = .ok (.dmaBeat .secondary, [])
    ∧ decode 0x4D0002C020200000 [] = .ok (.cacheFlush 704 0x20200000, [])
    ∧ decode 0x0700000001DF0000 [] = .ok (.rowPointer 479, [])
    ∧ decode 0x0A00000000050003 [0x11, 0x22, 0x33, 0x44] = .ok (.writeRowNative 5 3 [0x11, 0x22, 0x33], [0x44])
    ∧ decode 0x0C00000000000002 [0xF800, 0x07FF] = .ok (.writeRowRgb565 0 2 [0xF800, 0x07FF], [])
    ∧ decode 0x46000000202002C0 [] = .ok (.dmaReprogram 0x202002C0, [])

/-! ## The step -/

/-- R100, R7, R210: a step performs the operation HOST's next word stands for, the operation an agent's word stands for,
or the wait HOST is held in; and takes the word and its payload from the ports, or the move from the schedule. The
queues and the schedule are the model's (notes/assumptions/1.md, 6.md). -/
def Obligations.StepRunsDecodedOperation : Prop :=
  (∀ (s : State) (w : Command) (ws : List Command) (i : Instr) (data : List Half),
      s.pending = none → s.irqMasked = false → s.cmd = w :: ws → decodeHost w s.data = .ok (i, data) →
        (s.agenda = [] → step s = exec i { s with cmd := ws, data := data })
        ∧ ∀ rest, s.agenda = .host :: rest → step s = exec i { s with agenda := rest, cmd := ws, data := data })
  ∧ (∀ (s : State) (w : Command) (i : Instr) (rest : List Slot),
      s.agenda = .agent w :: rest → decodeInternal w = .ok i → step s = exec i { s with agenda := rest })
  ∧ ∀ (s : State) (i : Instr), s.pending = some i → s.irqMasked = false →
      (s.agenda = [] → step s = exec i s)
      ∧ ∀ rest, s.agenda = .host :: rest → step s = exec i { s with agenda := rest }

/-- R106: a word whose OP is unassigned, reserved or of the internal class, or whose Z is not zero, is ignored on the
CMD port: nothing changes but that the word is gone. The queue the word stands in is the model's
(notes/assumptions/6.md). -/
def Obligations.IllegalWordIgnored : Prop :=
  ∀ (s : State) (w : Command) (ws : List Command),
    s.agenda = [] → s.pending = none → s.irqMasked = false → s.cmd = w :: ws →
    (fieldZ w ≠ 0 ∨ 0x10 ≤ (fieldOp w).toNat) → step s = .next { s with cmd := ws }

/-- R13's `refuse`, where the spec says it: BEGIN in RUNNING (R221, R252); a host-class operation issued while the interrupt
routine's section is open (R262); a beat of more than one byte at an address that is no multiple of its size (R79); a
beat, DMA_REPROGRAM, DMA_CONFIGURE and a visible LINE_TICK (quiet) under a STRIDE that is no multiple of GRAN (R302). That
every word is refused under the mask, an illegal one too, is the model's choice (notes/assumptions/6.md). -/
def Obligations.RefusedCases : Prop :=
  (∀ (mode : Byte) (s : State), s.idle = false → exec (.beginMode mode) s = .refused .beginWhileRunning)
  ∧ (∀ (s : State) (w : Command) (ws : List Command), s.agenda = [] → s.pending = none → s.irqMasked = true →
      s.cmd = w :: ws → step s = .refused .hostInsideInterrupt)
  ∧ (∀ (c : Channel) (s : State), (s.chan c).erq = true → 0 < (s.chan c).rem.toNat →
      (s.granular = true → 1 < (s.chan c).beat.toNat → (s.chan c).saddr.toNat % (s.chan c).beat.toNat ≠ 0 →
        exec (.dmaBeat c) s = .refused .misalignedBeat)
      ∧ (s.mode.stride.toNat % s.mode.gran.toNat ≠ 0 → exec (.dmaBeat c) s = .refused .strideNotGranular))
  ∧ ∀ s : State, s.mode.gran ≠ 0 → s.mode.stride.toNat % s.mode.gran.toNat ≠ 0 →
      (∀ p : Word, exec (.dmaReprogram p) s = .refused .strideNotGranular)
      ∧ (s.idle = true → s.fbValid = true → s.dma0.erq = false → s.dma1.erq = false →
          exec .dmaConfigure s = .refused .strideNotGranular)
      ∧ ∀ row : Nat, s.running = true → s.irq = true → s.irqMasked = false → s.quiet → s.mode.totalLines ≠ 0 →
          let line : Word := BitVec.ofNat 32 ((s.line.toNat + 1) % s.mode.totalLines.toNat)
          s.mode.topBlank.toNat ≤ line.toNat →
          (line.toNat - s.mode.topBlank.toNat) / (if s.mode.ld then 2 else 1) = row → row < s.mode.height.toNat →
          exec .lineTick s = .refused .strideNotGranular

/-! ## Reset and pins (R42, R280, R34) -/

/-- R42: after reset every register reads 0 except PLL_DENOM = 1 and TMR_CTRL = 8, the streams and CACHE are empty, MEM is
unspecified, the pins are idle, and no LINE_TICK can occur. That LINE_TICK, which is then not enabled, leaves the state as
it is is the model's choice (notes/assumptions/2.md). -/
def Obligations.ResetValues : Prop :=
  (∀ n : Byte, readRegister State.reset n = if n = 0x22 then 1 else if n = 0x33 then 8 else 0)
    ∧ RegistersAtReset State.reset ∧ State.reset.result0 = 0 ∧ State.reset.result1 = 0
    ∧ State.reset.cache = []
    ∧ (∀ (C : Config) (a : Nat), memByte C State.reset a = C.memInit 0 a)
    ∧ (∀ C : Config, pins C State.reset = { hsync := true, vsync := !C.vsyncActive, color := 0 })
    ∧ State.reset.idle = true ∧ State.reset.irqMasked = false ∧ State.reset.tmrIe = false
    ∧ exec .lineTick State.reset = .next State.reset

/-- R280: RESET gives every register its reset value, empties the streams and CACHE, leaves MEM as it is, and abandons a
wait in progress; and in a gap of a LINE_TICK or a BEGIN that is running it does the same and abandons the operation. The
gap it falls into here is the first of the operation. That what lies outside the block stays (the ports' queues, the number
of the next draw, the output shown, the rest of the schedule) is the model's choice (notes/assumptions/14.md). -/
def Obligations.ResetEvent : Prop :=
  let isReset (s t : State) : Prop :=
    RegistersAtReset t ∧ t.result0 = 0 ∧ t.result1 = 0 ∧ t.cache = [] ∧ t.pending = none
      ∧ (∀ (C : Config) (a : Nat), memByte C t a = memByte C s a)
      ∧ t.cmd = s.cmd ∧ t.data = s.data ∧ t.draws = s.draws ∧ t.shown = s.shown
  (∀ (s : State) (rest : List Slot), s.agenda = .reset :: rest →
      ∃ t, step s = .next t ∧ isReset s t ∧ t.agenda = rest ∧ t.gaps = s.gaps)
  ∧ (∀ (s : State) (turns : List Turn) (rest : List (List Turn)), s.gaps = (.reset :: turns) :: rest →
      s.running = true → s.irq = true → s.irqMasked = false → s.mode.totalLines ≠ 0 →
      ∃ t, exec .lineTick s = .next t ∧ isReset s t ∧ t.agenda = s.agenda ∧ t.gaps = rest)
  ∧ ∀ (C : Config) (mode : Byte) (m : ResolvedMode) (s : State) (turns : List Turn) (rest : List (List Turn)),
      s.gaps = (.reset :: turns) :: rest → s.idle = true → resolveMode C mode = some m → clockTarget C m < 2 ^ 32 →
      ∃ t, beginMode C mode s = .next t ∧ (C = Config.chip → exec (.beginMode mode) s = .next t) ∧ isReset s t
        ∧ t.agenda = s.agenda ∧ t.gaps = rest

/-- R34: HSYNC is TMR_CTRL.OUT; VSYNC is `P_VSYNC_ACTIVE` while FLAGS.VSYNC is 1 and the other level while it is 0; the
colour pins are COLOR[7:0]. The observable output is the sequence of their values, in order, with the RESULT registers;
for every schedule a step only appends to the sequence. What TMR_STEP, LINE_TICK and SHIFT_OUT append their own statements
say. That the sequence stands in the state, and outlasts a RESET, is the model's (notes/assumptions/22.md). -/
def Obligations.PinsFollowRegisters : Prop :=
  (∀ (C : Config) (s : State),
    let vsyncLevel (flag : Bool) : Bool := if flag = true then C.vsyncActive else !C.vsyncActive
    pins C s =
        { hsync := s.tmr.ctrl.getLsbD 3, vsync := vsyncLevel (s.flags.getLsbD 1), color := s.frm.color.setWidth 8 }
    ∧ observable C s =
        { sequence :=
            s.shown.reverse.map fun x => { hsync := x.hsync, vsync := vsyncLevel x.vsync, color := x.color }
          result0 := s.result0, result1 := s.result1 })
  ∧ ∀ s t : State, step s = .next t →
      ∃ new : List Sample, t.shown.reverse = s.shown.reverse ++ new

/-! ## Invariants that every step keeps -/

/-- R72 (the model's form of it): every step keeps `MEM` and `CACHE` in their canonical form. The form is the model's
choice (notes/assumptions/4.md). -/
def Obligations.StepKeepsMemoryCanonical : Prop :=
  ∀ s t : State, memoryCanonical s → step s = .next t → memoryCanonical t

/-- R21, R24, R25, R28 to R30, R32, R33: every step keeps the reserved bits of every control register zero. -/
def Obligations.StepKeepsReservedZero : Prop :=
  ∀ s t : State, reservedZero s → step s = .next t → reservedZero t

/-- R21, R23, R25, R27: every step keeps the controller IDLE or RUNNING, and while RUNNING the VideoMode registers at legal
values (MODE_ID a key of the mode table, the clock divisor positive, all the lines of the mode in a frame) and LINE in its
range. For a mode whose numbers do not fit their registers that they obey R27 (e) there is the model's choice
(notes/assumptions/3.md). -/
def Obligations.StepKeepsModeLegal : Prop :=
  ∀ s t : State, legalController s → modeLegal Config.chip s → lineInRange s → step s = .next t →
    legalController t ∧ modeLegal Config.chip t ∧ lineInRange t

/-- R26, R28, R32: every step keeps SHIFT in `0 .. P_SHIFT_MAX`, NUM below DENOM, the divider of an enabled PLL in its
range, and an allocated frame buffer aligned and below 2^32. -/
def Obligations.StepKeepsRanges : Prop :=
  ∀ s t : State, shiftInRange Config.chip s → pllLegal Config.chip s → bufferLegal Config.chip s → step s = .next t →
    shiftInRange Config.chip t ∧ pllLegal Config.chip t ∧ bufferLegal Config.chip t

/-- R198, R176: every step keeps FRAME_START equal to VSYNC, and the colour pins low while no line is shifted out. -/
def Obligations.StepKeepsSyncAndBlack : Prop :=
  ∀ s t : State, syncFlagsAgree s → idleIsBlack s → step s = .next t → syncFlagsAgree t ∧ idleIsBlack t

/-- The state after reset meets every invariant above. -/
def Obligations.ResetMeetsInvariants : Prop :=
  memoryCanonical State.reset ∧ RegistersLegal Config.chip State.reset

/-! ## What an operation may change (R21 to R26, R41) -/

/-- R21 to R26, for every schedule: STATE is written by BEGIN and END only; LINE by LINE_TICK, BEGIN and END; the
VideoMode registers by BEGIN and END; SHIFT by BEGIN, TWEAK and END; RESULT1 by FRAME_SIZE, and by a BEGIN that fails, which
leaves it 0 (R222, R283; that it does so for each of the codes is DEDUCED, notes/assumptions/26.md); RESULT0 by the
commands that return a value. No RESET in the gaps: it writes them all (R280). -/
def Obligations.OnlyNamedOperationsWriteRegisters : Prop :=
  ∀ (i : Instr) (s t : State), s.noReset → exec i s = .next t →
    ((∀ m, i ≠ .beginMode m) → i ≠ .endMode →
      t.stateReg = s.stateReg ∧ t.mode = s.mode
      ∧ (i ≠ .lineTick → t.line = s.line)
      ∧ ((∀ a b c, i ≠ .tweak a b c) → t.shift = s.shift))
    ∧ ((∀ m, i ≠ .beginMode m) → i ≠ .frameSize → t.result1 = s.result1)
    ∧ (∀ m, i = .beginMode m → t.result1 = if t.running = true then s.result1 else 0)
    ∧ ((∀ m, i ≠ .beginMode m) → i ≠ .frameSize → (∀ y, i ≠ .rowPointer y) → (∀ x y, i ≠ .getPixel x y) →
        (∀ a, i ≠ .fbLoad a) → (∀ n, i ≠ .rdreg n) → t.result0 = s.result0)

/-- R41, R80 to R84, for every schedule: no operation but the host's stores, the row writers and BEGIN's zero fill (and
the allocation, whose bytes become unspecified) changes a byte as the host sees it. No RESET in the gaps: it empties
CACHE (R280). -/
def Obligations.OnlyHostWritesPixels : Prop :=
  ∀ (i : Instr) (s t : State), s.noReset → exec i s = .next t →
    (∀ m, i ≠ .beginMode m) → i ≠ .fbAlloc → (∀ x y v, i ≠ .setPixel x y v) → (∀ v a, i ≠ .fbStore v a) →
    (∀ y n p, i ≠ .writeRowNative y n p) → (∀ y n p, i ≠ .writeRowPal8 y n p) → (∀ y n p, i ≠ .writeRowRgb565 y n p) →
      ∀ a, hostByte Config.chip t a = hostByte Config.chip s a

/-! ## Mode resolver (spec/40_mode_resolver.md) -/

/-- R123: what MODE_RESOLVE returns, in mathematical integers, for an entry that passes every check, and that it returns
none for an id not in the table and for an entry that fails one; the operation itself writes no register. That the
operation of its own leaves the state as it is is read from the rule (notes/assumptions/17.md). -/
def Obligations.ModeResolveResult : Prop :=
  (∀ (mode : Byte) (s : State), exec (.modeResolve mode) s = .next s)
  ∧ ∀ (C : Config) (mode : Byte),
    (C.modeTable mode = none → resolveMode C mode = none)
    ∧ ∀ (e : ModeEntry) (lb rb stride g : Nat), C.modeTable mode = some e →
      lb = C.backporchPix * e.clkdivD / e.clkdivN → rb = C.frontporchPix * e.clkdivD / e.clkdivN →
      stride = lb + e.width + rb → g = (if e.combine then 8 else 4) →
      resolveMode C mode =
        if e.clkdivN = 0 ∨ e.clkdivD = 0 ∨ e.width = 0 ∨ e.height = 0 ∨ stride % g ≠ 0 ∨ C.shiftMax < e.shift0
          ∨ e.totalLines < e.topBlank + e.height * (if e.ld then 2 else 1)
          ∨ 65535 < stride ∨ 32767 < e.width ∨ 32767 < e.height ∨ 2 ^ 32 ≤ stride * e.height + C.fbPad
        then none
        else some
          { modeId := mode, width := e.width, height := e.height, stride := stride, ld := e.ld, combine := e.combine
            shift0 := e.shift0, clkdivN := e.clkdivN, clkdivD := e.clkdivD, lborder := lb, rborder := rb
            totalLines := e.totalLines, topBlank := e.topBlank, gran := g }

/-- R25, R27, R125: every mode that resolves has the stride invariant, borders that fit, and all its lines in one frame;
and its registers hold it: each holds its number where that fits 32 bits (TOP_BLANK where the visible lines above it fit
too), and whatever they hold, CLKDIV_N and CLKDIV_D are at least 1 and R27 (e) holds (the model's choice for a number that
does not fit, notes/assumptions/3.md). -/
def Obligations.ResolvedModeIsLegal : Prop :=
  ∀ (C : Config) (mode : Byte) (m : ResolvedMode), resolveMode C mode = some m →
    (m.stride = m.lborder + m.width + m.rborder
    ∧ m.width ≤ m.stride
    ∧ m.stride % m.gran = 0
    ∧ m.gran = (if m.combine then 8 else 4)
    ∧ m.topBlank + m.height * (if m.ld then 2 else 1) ≤ m.totalLines
    ∧ 1 ≤ m.width ∧ 1 ≤ m.height ∧ 1 ≤ m.clkdivN ∧ 1 ≤ m.clkdivD ∧ 1 ≤ m.totalLines ∧ m.shift0 ≤ C.shiftMax
    ∧ m.stride * m.height + C.fbPad < 2 ^ 32)
    ∧ let r := m.registers C
      r.modeId.toNat = mode.toNat ∧ r.width.toNat = m.width ∧ r.height.toNat = m.height ∧ r.stride.toNat = m.stride
      ∧ r.ld = m.ld ∧ r.combine = m.combine ∧ r.lborder.toNat = m.lborder ∧ r.rborder.toNat = m.rborder
      ∧ r.gran.toNat = m.gran
      ∧ (C.Legal → r.shift0.toNat = m.shift0)
      ∧ (m.clkdivN < 2 ^ 32 → r.clkdivN.toNat = m.clkdivN) ∧ (m.clkdivD < 2 ^ 32 → r.clkdivD.toNat = m.clkdivD)
      ∧ (m.totalLines < 2 ^ 32 → r.totalLines.toNat = m.totalLines)
      ∧ (m.topBlank + m.height * (if m.ld then 2 else 1) < 2 ^ 32 → r.topBlank.toNat = m.topBlank)
      ∧ 1 ≤ r.clkdivN.toNat ∧ 1 ≤ r.clkdivD.toNat ∧ 1 ≤ r.totalLines.toNat
      ∧ r.topBlank.toNat + r.height.toNat * (if r.ld then 2 else 1) ≤ r.totalLines.toNat

/-- R122, R124: mode 0 of every legal table, where it resolves, is 640 by 480, combined, not doubled, 525 lines, with the
whole blanking budget as its borders. -/
def Obligations.ReferenceMode : Prop :=
  ∀ (C : Config) (m : ResolvedMode), C.Legal → resolveMode C 0 = some m →
    m.width = 640 ∧ m.height = 480 ∧ m.ld = false ∧ m.combine = true ∧ m.totalLines = 525
    ∧ m.lborder = C.backporchPix ∧ m.rborder = C.frontporchPix
    ∧ m.stride = 640 + C.backporchPix + C.frontporchPix ∧ clockTarget C m = C.pixRefFreq

/-! ## Clock synthesizer (spec/41_clock_synth.md) -/

/-- R142: the search returns a pair in range whose error no other pair in range betters, and the smallest of those that
equal it. -/
def Obligations.ClockSearchMinimises : Prop :=
  ∀ (C : Config) (target d n : Nat), C.Legal →
    C.divMin ≤ (clkSearch C target).1 ∧ (clkSearch C target).1 ≤ C.divMax ∧ (clkSearch C target).2 < C.denom0
    ∧ (C.divMin ≤ d → d ≤ C.divMax → n < C.denom0 →
        let best := (clkSearch C target).1 * C.denom0 + (clkSearch C target).2
        clockError C target best ≤ clockError C target (d * C.denom0 + n)
        ∧ (clockError C target best = clockError C target (d * C.denom0 + n) → best ≤ d * C.denom0 + n))

/-- R143, R9, quiet: CLK_PROGRAM in IDLE writes the search's program and ENABLE, and LOCK is the draw `lock_ok`; nothing
else changes. That the polls are taken as the draw is a form R143 allows (notes/assumptions/9.md). -/
def Obligations.ClkProgramResult : Prop :=
  ∀ (target : Word) (s : State), s.idle = true → s.quiet →
    ∃ ctrl : Word,
      exec (.clkProgram target) s =
        .next { s with
          pll :=
            { div := BitVec.ofNat 32 (clkSearch Config.chip target.toNat).1
              num := BitVec.ofNat 32 (clkSearch Config.chip target.toNat).2
              denom := BitVec.ofNat 32 Config.chip.denom0
              ctrl := ctrl }
          draws := s.draws + 1 }
      ∧ ctrl.getLsbD 0 = true ∧ ctrl.getLsbD 31 = Config.chip.lockOk s.draws
      ∧ ∀ i, 0 < i → i < 31 → ctrl.getLsbD i = s.pll.ctrl.getLsbD i

/-- R147: PLL_LOCK sets LOCK of an enabled PLL that has not locked; it is not enabled otherwise. That a step not enabled
leaves the state as it is is the model's choice (notes/assumptions/2.md). -/
def Obligations.PllLockResult : Prop :=
  ∀ s : State,
    exec .pllLock s =
      if s.pllEnabled = true ∧ s.pllLocked = false then
        .next { s with pll := { s.pll with ctrl := s.pll.ctrl ||| 0x80000000 } }
      else .next s

/-- R150: TWEAK in RUNNING applies each half whose result is legal, on exact integers, and drops the other; in IDLE it has
no effect. -/
def Obligations.TweakResult : Prop :=
  ∀ (sd nd dd : Half) (s : State),
    let shift : Int := s.shift.toNat + sd.toInt
    let num : Int := s.pll.num.toNat + nd.toInt
    let denom : Int := s.pll.denom.toNat + dd.toInt
    (s.running = false → exec (.tweak sd nd dd) s = .next s)
    ∧ (s.running = true →
        exec (.tweak sd nd dd) s =
          .next { s with
            shift := if 0 ≤ shift ∧ shift ≤ Config.chip.shiftMax then BitVec.ofInt 32 shift else s.shift
            pll :=
              if 1 ≤ denom ∧ denom < 2 ^ 32 ∧ 0 ≤ num ∧ num < denom then
                { s.pll with num := BitVec.ofInt 32 num, denom := BitVec.ofInt 32 denom }
              else s.pll })

/-! ## DMA pipeline (spec/42_dma_pipeline.md) -/

/-- R163, R167, R31, quiet: DMA_CONFIGURE, where its precondition holds, writes both descriptors for the mode, disarmed,
and UNALIGNED; nothing else changes. Where its precondition fails it is a step not taken. That a step not enabled leaves
the state as it is is the model's choice (notes/assumptions/2.md). -/
def Obligations.DmaConfigureResult : Prop :=
  ∀ s : State,
    (s.idle = true → s.mode.gran ≠ 0 → s.fbValid = true → s.dma0.erq = false → s.dma1.erq = false →
      s.mode.stride.toNat % s.mode.gran.toNat = 0 → s.quiet →
      let aligned : Bool := decide (s.shift.toNat % s.mode.gran.toNat = 0)
      let beats : Word := BitVec.ofNat 32 (s.mode.stride.toNat / s.mode.gran.toNat)
      let beats1 : Word := if aligned then beats else s.mode.stride
      exec .dmaConfigure s =
        .next { s with
          dma0 :=
            { saddr := s.fb.base, daddr := 0, beat := s.mode.gran, count := beats, rem := beats
              slast := 0 - s.mode.stride, dcsr := setFlag (setFlag s.dma0.dcsr 1 true) 2 false }
          dma1 :=
            { saddr := s.fb.base + s.shift, daddr := 1, beat := if aligned then s.mode.gran else 1
              count := beats1, rem := beats1
              slast := 0 - s.mode.stride, dcsr := setFlag (setFlag s.dma1.dcsr 1 true) 2 false }
          flags := setFlag s.flags 3 (!aligned) })
    ∧ ((s.idle = false ∨ s.mode.gran = 0 ∨ s.fbValid = false ∨ s.dma0.erq = true ∨ s.dma1.erq = true) →
        exec .dmaConfigure s = .next s)

/-- R165, quiet: DMA_ENABLE in RUNNING empties the streams, arms both channels and starts the line, corrupted if the
previous one is unfinished; nothing else changes. In IDLE it is a step not taken. That a step not enabled leaves the
state as it is is the model's choice (notes/assumptions/2.md). -/
def Obligations.DmaEnableResult : Prop :=
  ∀ s : State,
    let overrun := s.frm.ctrl.getLsbD 0 || s.dma0.rem != s.dma0.count || s.dma0.dcsr.getLsbD 0 || s.dma1.dcsr.getLsbD 0
    (s.running = true → s.quiet →
      exec .dmaEnable s =
        .next { s with
          stream0 := [], stream1 := []
          dma0 := { s.dma0 with dcsr := setFlag (setFlag s.dma0.dcsr 2 false) 0 true }
          dma1 := { s.dma1 with dcsr := setFlag (setFlag s.dma1.dcsr 2 false) 0 true }
          frm := { s.frm with px := 0, ctrl := setFlag (setFlag s.frm.ctrl 1 overrun) 0 true } })
    ∧ (s.running = false → exec .dmaEnable s = .next s)

/-- R166: DMA_DISABLE disarms both channels, ends the line, puts the colour pins to 0 and empties the streams; nothing
else changes. -/
def Obligations.DmaDisableResult : Prop :=
  ∀ s : State,
    exec .dmaDisable s =
      .next { s with
        dma0 := { s.dma0 with dcsr := setFlag s.dma0.dcsr 0 false }
        dma1 := { s.dma1 with dcsr := setFlag s.dma1.dcsr 0 false }
        frm := { s.frm with ctrl := setFlag (setFlag s.frm.ctrl 0 false) 1 false, color := 0 }
        stream0 := [], stream1 := [] }

/-- R167, R168, quiet: DMA_REPROGRAM writes the two source addresses, exactly SHIFT apart, the secondary's beat geometry
and UNALIGNED; nothing else changes. Before the VideoMode registers are written it is a step not taken. That a step not
enabled leaves the state as it is is the model's choice (notes/assumptions/2.md). -/
def Obligations.DmaReprogramResult : Prop :=
  ∀ (p : Word) (s : State),
    (s.mode.gran ≠ 0 → s.mode.stride.toNat % s.mode.gran.toNat = 0 → s.quiet →
      exec (.dmaReprogram p) s =
        if s.shift.toNat % s.mode.gran.toNat = 0 then
          .next { s with
            dma0 := { s.dma0 with saddr := p }
            dma1 :=
              { s.dma1 with
                saddr := p + s.shift, beat := s.mode.gran
                count := BitVec.ofNat 32 (s.mode.stride.toNat / s.mode.gran.toNat)
                rem := BitVec.ofNat 32 (s.mode.stride.toNat / s.mode.gran.toNat) }
            flags := setFlag s.flags 3 false }
        else
          .next { s with
            dma0 := { s.dma0 with saddr := p }
            dma1 := { s.dma1 with saddr := p + s.shift, beat := 1, count := s.mode.stride, rem := s.mode.stride }
            flags := setFlag s.flags 3 true })
    ∧ (s.mode.gran = 0 → exec (.dmaReprogram p) s = .next s)

/-- R31, at both its points, R177. For every schedule in which no channel that has turns in the gaps is armed, and no RESET
falls into them (that an armed channel may take a beat there, after which the equation fails, is the model's choice,
notes/assumptions/23.md): at the completion of DMA_REPROGRAM the two source addresses differ by SHIFT. And when both
channels, from the start of one line on, have completed it, by whatever beats, the addresses differ by SHIFT again. -/
def Obligations.ReprogramAddressesDiffer : Prop :=
  (∀ (p : Word) (s t : State), s.mode.gran ≠ 0 → s.noReset →
    (∀ ts ∈ s.gaps, ∀ c, Turn.dmaBeat c ∈ ts → (s.chan c).erq = false) → exec (.dmaReprogram p) s = .next t →
    t.dma1.saddr - t.dma0.saddr = t.shift ∧ t.dma0.saddr = p)
  ∧ ∀ (beats : List Channel) (s t : State), s.noReset → AtLineStart s .primary → AtLineStart s .secondary →
      s.dma1.saddr - s.dma0.saddr = s.shift → runBeats beats s = .next t → t.dma0.done = true → t.dma1.done = true →
      t.dma1.saddr - t.dma0.saddr = t.shift

/-- R169, R82, R71, quiet: an enabled beat of channel `c` appends `BEAT` bytes to its stream, those inside the frame
buffer being `MEM`'s, in ascending order, and advances the descriptor; the last beat of a line rewinds it by SLAST,
reloads REM, sets DONE and, if DREQ, clears ERQ. DADDR is not advanced, and nothing else changes but the number of the
next draw. A beat that is not enabled is a step not taken. That a step not enabled leaves the state as it is is the
model's choice (notes/assumptions/2.md). -/
def Obligations.DmaBeatResult : Prop :=
  ∀ (c : Channel) (s : State),
    let d := s.chan c
    ((d.erq = true ∧ 0 < d.rem.toNat) → s.granular = true → (d.beat.toNat ≤ 1 ∨ d.saddr.toNat % d.beat.toNat = 0) →
      s.quiet →
      ∃ (bytes : List Byte) (draws : Nat),
        bytes.length = d.beat.toNat
        ∧ (∀ i, i < d.beat.toNat → s.inFrameBuffer (d.saddr.toNat + i) = true →
            bytes[i]? = some (memByte Config.chip s (d.saddr.toNat + i)))
        ∧ exec (.dmaBeat c) s =
            .next ((({ s with draws := draws }).setStream c (s.stream c ++ bytes)).setChan c
              (if d.rem = 1 then
                { d with
                  saddr := d.saddr + d.beat + d.slast, rem := d.count
                  dcsr := if d.dreq = true then setFlag (setFlag d.dcsr 2 true) 0 false else setFlag d.dcsr 2 true }
              else { d with saddr := d.saddr + d.beat, rem := d.rem - 1 })))
    ∧ (¬ (d.erq = true ∧ 0 < d.rem.toNat) → exec (.dmaBeat c) s = .next s)

/-- R169, R170, R171, quiet: the COUNT beats of a line deliver exactly the STRIDE bytes from the line's start on, each
once, in ascending order, and leave the descriptor rewound, complete and disarmed. -/
def Obligations.LineOfBeats : Prop :=
  ∀ (c : Channel) (s : State),
    let d := s.chan c
    d.erq = true → d.dreq = true → 0 < d.count.toNat → d.rem = d.count → 0 < d.beat.toNat →
    d.beat.toNat * d.count.toNat = s.mode.stride.toNat → d.slast = 0 - s.mode.stride →
    d.saddr.toNat % d.beat.toNat = 0 → s.granular = true →
    (∀ i, i < s.mode.stride.toNat → s.inFrameBuffer (d.saddr.toNat + i) = true) → s.quiet →
    ∃ t, times (exec (.dmaBeat c)) d.count.toNat s = .next t
      ∧ t.stream c =
          s.stream c ++ (List.range s.mode.stride.toNat).map (fun i => memByte Config.chip s (d.saddr.toNat + i))
      ∧ (t.chan c).saddr = d.saddr ∧ (t.chan c).rem = d.count ∧ (t.chan c).done = true ∧ (t.chan c).erq = false

/-- R85, R171, R92, R75: in a legal RUNNING state the bytes both channels read for any row, and the pixels of the visible
window that GET_PIXEL, SET_PIXEL and the row writers access, lie inside the frame buffer. -/
def Obligations.AccessesInsideBuffer : Prop :=
  ∀ (C : Config) (s : State), C.Legal → s.running = true → modeLegal C s → shiftInRange C s → bufferCovers C s →
    (∀ row j : Nat, row < s.mode.height.toNat → j < s.mode.stride.toNat →
      s.inFrameBuffer (s.rowBase row + j) = true ∧ s.inFrameBuffer (s.rowBase row + s.shift.toNat + j) = true)
    ∧ ∀ x y : Half, s.pixelInRange x y →
        s.inFrameBuffer
          (s.fb.base.toNat + s.mode.lborder.toNat + s.mode.stride.toNat * y.toInt.toNat + x.toInt.toNat) = true

/-- R173, R34: one pixel clock: the end of the line, a corrupted pixel (a draw), a pixel of both lanes, each with its sample
of the pins, or a step not taken while a lane lacks its byte or no line is active. Nothing else changes. That a step not
enabled leaves the state as it is is the model's choice (notes/assumptions/2.md). -/
def Obligations.ShiftOutResult : Prop :=
  ∀ s : State,
    let t := s.frm.px.toNat
    let len := s.mode.stride.toNat
    let k := Config.chip.skew s.mode.modeId.toNat
    let lane1 : BitVec 4 := if k ≤ t then (s.stream1.getD (t - k) 0).extractLsb' 4 4 else 0
    let lane0 : BitVec 4 := if t < len then (s.stream0.getD t 0).extractLsb' 0 4 else 0
    let showing (color : Byte) : List Sample := { hsync := s.tmrOut, vsync := s.vsync, color := color } :: s.shown
    exec .shiftOut s =
      if s.frmActive = false then .next s
      else if t = len + k then
        .next { s with
          frm := { s.frm with ctrl := setFlag (setFlag s.frm.ctrl 0 false) 1 false, color := 0 }
          shown := showing 0 }
      else if s.frmCorrupt = true then
        .next { s with
          frm := { s.frm with color := (Config.chip.corruptColour s.draws).setWidth 32, px := BitVec.ofNat 32 (t + 1) }
          draws := s.draws + 1
          shown := showing (Config.chip.corruptColour s.draws) }
      else if (t < len → t < s.stream0.length) ∧ (k ≤ t → t - k < s.stream1.length) then
        .next { s with
          frm := { s.frm with color := (lane1 ++ lane0).setWidth 32, px := BitVec.ofNat 32 (t + 1) }
          shown := showing (lane1 ++ lane0) }
      else .next s

/-- R173, R174: a line whose streams are complete is shown in `STRIDE + P_SKEW + 1` pixel clocks: at pixel `t` the low
four pins carry byte `t` of STREAM[0] and the high four byte `t - P_SKEW` of STREAM[1], 0 where a lane has no byte; then the
pins are 0 and no line is active. -/
def Obligations.LineOfColours : Prop :=
  ∀ (C : Config) (s : State),
    let len := s.mode.stride.toNat
    let k := C.skew s.mode.modeId.toNat
    s.frmActive = true → s.frmCorrupt = false → s.frm.px = 0 → len + k < 2 ^ 32 →
    s.stream0.length = len → s.stream1.length = len →
    (∀ t, t < len + k → ∃ u, times (fun x => .next (pixelClock C x)) (t + 1) s = .next u
      ∧ u.frmActive = true ∧ u.frm.px.toNat = t + 1
      ∧ (∀ i, i < 4 → u.frm.color.getLsbD i = (decide (t < len) && (s.stream0.getD t 0).getLsbD i))
      ∧ (∀ i, 4 ≤ i → i < 8 → u.frm.color.getLsbD i = (decide (k ≤ t) && (s.stream1.getD (t - k) 0).getLsbD i)))
    ∧ ∃ u, times (fun x => .next (pixelClock C x)) (len + k + 1) s = .next u ∧ u.frmActive = false ∧ u.frm.color = 0

/-! ## Scanline driver (spec/43_scanline_driver.md) -/

/-- R191, R34: one timer clock: the end of the low phase raises OUT and TCF1, the end of the other phase lowers OUT and
raises TCF2, each with a counter reset and a phase change; otherwise the counter counts; each with its sample of the
pins. A stopped timer does not step. That a step not enabled leaves the state as it is is the model's choice
(notes/assumptions/2.md). -/
def Obligations.TmrStepResult : Prop :=
  ∀ s : State,
    let n := s.tmr.cnt.toNat + 1
    let showing (hsync : Bool) : List Sample :=
      { hsync := hsync, vsync := s.vsync, color := s.frm.color.setWidth 8 } :: s.shown
    exec .tmrStep s =
      if s.tmrRun = false then .next s
      else if s.tmrPhase = false ∧ n = s.tmr.cmp1.toNat then
        .next { s with
          tmr := { s.tmr with cnt := 0, ctrl := setFlag (setFlag (setFlag s.tmr.ctrl 3 true) 4 true) 2 true }
          shown := showing true }
      else if s.tmrPhase = true ∧ n = s.tmr.cmp2.toNat then
        .next { s with
          tmr := { s.tmr with cnt := 0, ctrl := setFlag (setFlag (setFlag s.tmr.ctrl 3 false) 5 true) 2 false }
          shown := showing false }
      else .next { s with tmr := { s.tmr with cnt := BitVec.ofNat 32 n }, shown := showing s.tmrOut }

/-- R194: from the start of a low phase HSYNC is low for CMP1 timer clocks, then high for CMP2, then a low phase starts
again; the line interrupt is pending from the end of the low phase on. -/
def Obligations.HsyncWaveform : Prop :=
  ∀ s : State, s.tmrRun = true → s.tmrPhase = false → s.tmr.cnt = 0 → s.tmrOut = false →
    1 ≤ s.tmr.cmp1.toNat → 1 ≤ s.tmr.cmp2.toNat →
    (∀ i, i < s.tmr.cmp1.toNat → ∃ t, times (exec .tmrStep) i s = .next t ∧ hsyncPin t = false)
    ∧ (∀ i, i < s.tmr.cmp2.toNat →
        ∃ t, times (exec .tmrStep) (s.tmr.cmp1.toNat + i) s = .next t ∧ hsyncPin t = true ∧ t.tcf1 = true)
    ∧ ∃ t, times (exec .tmrStep) (s.tmr.cmp1.toNat + s.tmr.cmp2.toNat) s = .next t
        ∧ hsyncPin t = false ∧ t.tmrPhase = false ∧ t.tmr.cnt = 0 ∧ t.tcf2 = true

/-- R195, R198, R200, R34, quiet: a tick that makes LINE a blanking line clears the compare flags, advances LINE, sets VSYNC
and FRAME_START on line 0 only, takes its sample of the pins (notes/assumptions/22.md), and changes nothing else; the mask
is open again at its end. In IDLE, without a pending
interrupt, without IE, or under the mask LINE_TICK is a step not taken. That a step not enabled leaves the state as it
is is the model's choice (notes/assumptions/2.md). -/
def Obligations.BlankingTickResult : Prop :=
  (∀ s : State, s.running = true → s.irq = true → s.irqMasked = false → s.quiet → s.mode.totalLines ≠ 0 →
    let line : Word := BitVec.ofNat 32 ((s.line.toNat + 1) % s.mode.totalLines.toNat)
    (∀ row : Nat, row < s.mode.height.toNat →
      ¬ (s.mode.topBlank.toNat ≤ line.toNat
          ∧ (line.toNat - s.mode.topBlank.toNat) / (if s.mode.ld then 2 else 1) = row)) →
    exec .lineTick s =
      .next { s with
        line := line
        tmr := { s.tmr with ctrl := setFlag (setFlag s.tmr.ctrl 4 false) 5 false }
        flags := setFlag (setFlag s.flags 1 (line == 0)) 0 (line == 0)
        shown := { hsync := s.tmrOut, vsync := line == 0, color := s.frm.color.setWidth 8 } :: s.shown })
  ∧ ∀ s : State, (s.running = false ∨ s.tcf1 = false ∨ s.tmrIe = false ∨ s.irqMasked = true) →
      exec .lineTick s = .next s

/-- R195, R167, R165, R84, quiet: a tick that makes LINE show a row reprograms both channels for the row's base address
`p`, arms them and starts the line, and writes the row's dirty bytes back; apart from what the blanking tick writes,
nothing else changes. That it does so on line 1 too where TOP_BLANK is 0 is the model's choice (notes/assumptions/27.md). -/
def Obligations.VisibleTickResult : Prop :=
  ∀ (s : State) (row : Nat), s.running = true → s.irq = true → s.irqMasked = false → s.quiet →
    s.mode.totalLines ≠ 0 → s.granular = true →
    let line : Word := BitVec.ofNat 32 ((s.line.toNat + 1) % s.mode.totalLines.toNat)
    s.mode.topBlank.toNat ≤ line.toNat →
    (line.toNat - s.mode.topBlank.toNat) / (if s.mode.ld then 2 else 1) = row → row < s.mode.height.toNat →
    let p : Word := BitVec.ofNat 32 (s.fb.base.toNat + s.mode.stride.toNat * row)
    let aligned : Bool := decide (s.shift.toNat % s.mode.gran.toNat = 0)
    let beats1 : Word :=
      if aligned then BitVec.ofNat 32 (s.mode.stride.toNat / s.mode.gran.toNat) else s.mode.stride
    let overrun := s.frm.ctrl.getLsbD 0 || s.dma0.rem != s.dma0.count || s.dma0.dcsr.getLsbD 0 || s.dma1.dcsr.getLsbD 0
    ∃ t, exec .lineTick s = .next t
      ∧ t =
        { s with
          line := line
          tmr := { s.tmr with ctrl := setFlag (setFlag s.tmr.ctrl 4 false) 5 false }
          flags := setFlag (setFlag (setFlag s.flags 1 (line == 0)) 0 (line == 0)) 3 (!aligned)
          dma0 := { s.dma0 with saddr := p, dcsr := setFlag (setFlag s.dma0.dcsr 2 false) 0 true }
          dma1 :=
            { s.dma1 with
              saddr := p + s.shift, beat := if aligned then s.mode.gran else 1, count := beats1, rem := beats1
              dcsr := setFlag (setFlag s.dma1.dcsr 2 false) 0 true }
          frm := { s.frm with px := 0, ctrl := setFlag (setFlag s.frm.ctrl 1 overrun) 0 true }
          stream0 := [], stream1 := [], mem := t.mem, cache := t.cache
          shown := { hsync := s.tmrOut, vsync := line == 0, color := s.frm.color.setWidth 8 } :: s.shown }
      ∧ (∀ a, memByte Config.chip t a =
          if p.toNat ≤ a ∧ a < p.toNat + s.mode.stride.toNat then hostByte Config.chip s a
          else memByte Config.chip s a)
      ∧ ∀ a, hostByte Config.chip t a = hostByte Config.chip s a

/-- R197, R198, R260, for every schedule: a tick adds exactly 1 to LINE modulo TOTAL_LINES, leaves FRAME_START and VSYNC 1
on line 0 and 0 on every other line, and leaves the mask open. No RESET in the gaps: it abandons the tick (R280). -/
def Obligations.TickAdvancesLine : Prop :=
  ∀ s t : State, s.noReset → s.running = true → s.irq = true → s.irqMasked = false → exec .lineTick s = .next t →
    t.line.toNat = (s.line.toNat + 1) % s.mode.totalLines.toNat
    ∧ t.frameStart = decide (t.line = 0) ∧ t.vsync = decide (t.line = 0) ∧ t.irqMasked = false
    ∧ t.mode = s.mode ∧ t.stateReg = s.stateReg

/-- R197, quiet: `n` simulated ticks from a RUNNING state complete and advance LINE by `n` modulo TOTAL_LINES, with
FRAME_START 1 exactly where LINE is 0. -/
def Obligations.TicksCountLines : Prop :=
  ∀ (n : Nat) (s : State), s.running = true → s.tmrIe = true → s.irqMasked = false → s.quiet → s.granular = true →
    s.line.toNat < s.mode.totalLines.toNat →
    ∃ t, times simulatedTick n s = .next t
      ∧ t.line.toNat = (s.line.toNat + n) % s.mode.totalLines.toNat
      ∧ (0 < n → t.frameStart = decide (t.line = 0))

/-- R199: a line shows row `(LINE - TOP_BLANK) / (1 + LD)` where LINE is at least TOP_BLANK and that row is below HEIGHT, and
no row otherwise; the lines that show a row are `TOP_BLANK` to `TOP_BLANK + HEIGHT * (1 + LD) - 1`; with line doubling the
lines `TOP_BLANK + 2j` and `TOP_BLANK + 2j + 1` both show row `j`. -/
def Obligations.VisibleRowMapping : Prop :=
  ∀ s : State,
    (∀ row : Nat, s.visibleRow = some row ↔
      s.mode.topBlank.toNat ≤ s.line.toNat
        ∧ (s.line.toNat - s.mode.topBlank.toNat) / (if s.mode.ld then 2 else 1) = row ∧ row < s.mode.height.toNat)
    ∧ (s.visibleRow.isSome = true ↔
      s.mode.topBlank.toNat ≤ s.line.toNat
        ∧ s.line.toNat < s.mode.topBlank.toNat + s.mode.height.toNat * (if s.mode.ld then 2 else 1))
    ∧ ∀ (j : Nat) (line line' : Word), s.mode.ld = true → j < s.mode.height.toNat →
        line.toNat = s.mode.topBlank.toNat + 2 * j → line'.toNat = s.mode.topBlank.toNat + 2 * j + 1 →
        ({ s with line := line }).visibleRow = some j ∧ ({ s with line := line' }).visibleRow = some j

/-- R201, R202, R259, R260: the entry to the atomic section sets IRQ_MASK and the return clears it; nothing else is saved
or restored. That IRQ_MASK under the mask, and IRQ_UNMASK without it, whose preconditions fail, leave the state as it is
is the model's choice (notes/assumptions/2.md). -/
def Obligations.MaskAndUnmask : Prop :=
  ∀ s : State,
    exec .irqMask s = .next { s with flags := s.flags ||| 0x4 }
    ∧ exec .irqUnmask s = .next { s with flags := s.flags &&& ~~~(0x4 : Word) }

/-! ## Synchronization and register read (spec/44_sync.md) -/

/-- R211, R212, R210: a wait whose condition is true completes at once and changes nothing; one whose condition is false
leaves HOST held, and HOST held samples the condition at each of its moves: held, nothing changes, and it is released at
the first sample that is true. A move of HOST is a step with the schedule ended or with HOST's slot at its head. One
sample per move of HOST is the model's reading (notes/assumptions/20.md). -/
def Obligations.WaitsHold : Prop :=
  ∀ (n : Half) (s : State),
    (s.frameStart = true → exec .waitVsync s = .next { s with pending := none })
    ∧ (s.frameStart = false → exec .waitVsync s = .next { s with pending := some .waitVsync })
    ∧ (s.line.toNat = n.toNat → exec (.waitLine n) s = .next { s with pending := none })
    ∧ (s.line.toNat ≠ n.toNat → exec (.waitLine n) s = .next { s with pending := some (.waitLine n) })
    ∧ ∀ rest : List Slot, ((s.agenda = [] ∧ rest = []) ∨ s.agenda = .host :: rest) → s.irqMasked = false →
        (s.pending = some .waitVsync →
          step s =
            .next { s with agenda := rest, pending := if s.frameStart = true then none else some .waitVsync })
        ∧ (s.pending = some (.waitLine n) →
          step s =
            .next { s with agenda := rest, pending := if s.line.toNat = n.toNat then none else some (.waitLine n) })

/-- R214, R38: RDREG writes the register's value to RESULT0 and nothing else; each of the 47 numbers reads its register, and
every other number reads 0. -/
def Obligations.RdregResult : Prop :=
  ∀ s : State,
    (∀ n : Byte, exec (.rdreg n) s = .next { s with result0 := readRegister s n })
    ∧ (reservedZero s →
        [0x00, 0x01, 0x02, 0x03, 0x04, 0x10, 0x11, 0x12, 0x13, 0x14, 0x15, 0x16, 0x17, 0x18, 0x19, 0x1A, 0x1B, 0x1C,
          0x1D, 0x20, 0x21, 0x22, 0x23, 0x30, 0x31, 0x32, 0x33, 0x40, 0x41, 0x42, 0x43, 0x44, 0x45, 0x46, 0x50, 0x51,
          0x52, 0x53, 0x54, 0x55, 0x56, 0x60, 0x61, 0x62, 0x70, 0x71, 0x72].map (readRegister s)
        = [s.stateReg, s.result0, s.result1, s.line, s.flags, s.mode.modeId, s.mode.width, s.mode.height, s.mode.stride,
          s.mode.mflags, s.mode.shift0, s.mode.clkdivN, s.mode.clkdivD, s.mode.lborder, s.mode.rborder,
          s.mode.totalLines, s.mode.topBlank, s.mode.gran, s.shift, s.pll.div, s.pll.num, s.pll.denom, s.pll.ctrl,
          s.tmr.cnt, s.tmr.cmp1, s.tmr.cmp2, s.tmr.ctrl, s.dma0.saddr, s.dma0.daddr, s.dma0.beat, s.dma0.count,
          s.dma0.rem, s.dma0.slast, s.dma0.dcsr, s.dma1.saddr, s.dma1.daddr, s.dma1.beat, s.dma1.count, s.dma1.rem,
          s.dma1.slast, s.dma1.dcsr, s.fb.base, s.fb.size, s.fb.ctrl, s.frm.px, s.frm.ctrl, s.frm.color])
    ∧ ∀ n : Byte,
        n ∉ ([0x00, 0x01, 0x02, 0x03, 0x04, 0x10, 0x11, 0x12, 0x13, 0x14, 0x15, 0x16, 0x17, 0x18, 0x19, 0x1A, 0x1B, 0x1C,
          0x1D, 0x20, 0x21, 0x22, 0x23, 0x30, 0x31, 0x32, 0x33, 0x40, 0x41, 0x42, 0x43, 0x44, 0x45, 0x46, 0x50, 0x51,
          0x52, 0x53, 0x54, 0x55, 0x56, 0x60, 0x61, 0x62, 0x70, 0x71, 0x72] : List Byte) →
        readRegister s n = 0

/-- R242, R128: NOP changes nothing; FRAME_SIZE returns the width and the height. -/
def Obligations.NopAndFrameSizeResult : Prop :=
  ∀ s : State,
    exec .nop s = .next s
    ∧ exec .frameSize s = .next { s with result0 := s.mode.width, result1 := s.mode.height }

/-! ## Host interface (spec/45_host_interface.md) -/

/-- R221, R250, quiet: BEGIN in IDLE with no frame buffer completes, with the code of the first failing step, or OK, in
RESULT0; it is RUNNING exactly where the code is OK. RESULT1 is unchanged where the code is OK and 0 where it is not (R222,
R283; that R221's stop for an unsupported mode clears it too is DEDUCED, notes/assumptions/26.md). -/
def Obligations.BeginCompletes : Prop :=
  ∀ (mode : Byte) (s : State), s.idle = true → s.fbValid = false → s.quiet →
    ∃ t, exec (.beginMode mode) s = .next t
      ∧ t.result0 = beginCode Config.chip mode s
      ∧ t.result1 = (if beginCode Config.chip mode s = codeOk then s.result1 else 0)
      ∧ (t.running = true ↔ beginCode Config.chip mode s = codeOk)
      ∧ (beginCode Config.chip mode s = codeModeUnsupported →
          t = { s with result0 := codeModeUnsupported, result1 := 0 })

/-- R221, R163, quiet: what a successful BEGIN from the reset values leaves, for every legal configuration: every register,
and the host's view of the frame buffer zeroed. Every byte outside the frame buffer that MEM lists or that is dirty stays;
a byte of MEM that nothing has written is a new unspecified value, in the frame buffer and outside it, which is more than
R73 asks (notes/assumptions/12.md). What a register holds of a number that does not fit it is the model's choice
(`Config.held`, notes/assumptions/3.md). -/
def Obligations.BeginSuccess : Prop :=
  ∀ (C : Config) (mode : Byte) (s : State) (m : ResolvedMode) (a : Nat), C.Legal → RegistersAtReset s → s.quiet →
    resolveMode C mode = some m → clockTarget C m < 2 ^ 32 → C.lockOk s.draws = true →
    C.allocDraw (s.draws + 1) (m.stride * m.height + C.fbPad) = some a →
    let size := m.stride * m.height + C.fbPad
    let gran : Word := BitVec.ofNat 32 m.gran
    let stride : Word := BitVec.ofNat 32 m.stride
    let shift : Word := BitVec.ofNat 32 m.shift0
    let lines := m.height * (if m.ld then 2 else 1)
    let topBlank : Word := C.held 0x1B 0 (2 ^ 32 - 1 - lines) m.topBlank
    let aligned : Bool := decide (m.shift0 % m.gran = 0)
    let beats : Word := BitVec.ofNat 32 (m.stride / m.gran)
    let beats1 : Word := if aligned then beats else stride
    ∃ t, beginMode C mode s = .next t ∧ (C = Config.chip → exec (.beginMode mode) s = .next t)
      ∧ t =
        { s with
          stateReg := 1, result0 := 0, line := 0, flags := if aligned then 0 else 8
          mode :=
            { modeId := mode.setWidth 32, width := BitVec.ofNat 32 m.width, height := BitVec.ofNat 32 m.height
              stride := stride, mflags := (if m.ld then 1 else 0) ||| (if m.combine then 2 else 0), shift0 := shift
              clkdivN := C.held 0x16 1 (2 ^ 32 - 1) m.clkdivN, clkdivD := C.held 0x17 1 (2 ^ 32 - 1) m.clkdivD
              lborder := BitVec.ofNat 32 m.lborder, rborder := BitVec.ofNat 32 m.rborder
              totalLines := C.held 0x1A (topBlank.toNat + lines) (2 ^ 32 - 1) m.totalLines, topBlank := topBlank
              gran := gran }
          shift := shift
          pll :=
            { div := BitVec.ofNat 32 (clkSearch C (clockTarget C m)).1
              num := BitVec.ofNat 32 (clkSearch C (clockTarget C m)).2
              denom := BitVec.ofNat 32 C.denom0, ctrl := 0x80000001 }
          tmr :=
            { cnt := 0, cmp1 := C.held 0x31 1 (2 ^ 32 - 1) C.hsLow, cmp2 := C.held 0x32 1 (2 ^ 32 - 1) C.hsRest
              ctrl := 3 }
          dma0 :=
            { saddr := BitVec.ofNat 32 a, daddr := 0, beat := gran, count := beats, rem := beats
              slast := 0 - stride, dcsr := 2 }
          dma1 :=
            { saddr := BitVec.ofNat 32 a + shift, daddr := 1, beat := if aligned then gran else 1
              count := beats1, rem := beats1, slast := 0 - stride, dcsr := 2 }
          fb := { base := BitVec.ofNat 32 a, size := BitVec.ofNat 32 size, ctrl := 1 }
          mem := memEraseRange s.mem a size, cache := t.cache, epoch := s.epoch + 1, draws := s.draws + 2 }
      ∧ ∀ x, memGet t.cache x = if a ≤ x ∧ x < a + size then some 0 else memGet s.cache x

/-- R222, R250, R283: after a failed BEGIN from the reset values every register except RESULT0 holds its reset value. Quiet,
nothing else has changed but RESULT1, which is 0, and the number of the next draw, and no byte as the host sees it. For
every schedule, a BEGIN that does not end RUNNING leaves the reset values, RESULT1 = 0 among them; and with no RESET in the
gaps RESULT0 holds an error code. When RESULT1 is written is DEDUCED (notes/assumptions/26.md). -/
def Obligations.BeginFailureLeavesNothing : Prop :=
  (∀ (C : Config) (mode : Byte) (s t : State), C.Legal → RegistersAtReset s → s.quiet → beginCode C mode s ≠ codeOk →
    beginMode C mode s = .next t →
    t = { s with result0 := beginCode C mode s, result1 := 0, draws := t.draws })
  ∧ ∀ (C : Config) (mode : Byte) (s t : State), RegistersAtReset s → beginMode C mode s = .next t → t.running = false →
      RegistersAtReset t ∧ t.result1 = 0 ∧ (s.noReset → t.result0 = 1 ∨ t.result0 = 2 ∨ t.result0 = 3)

/-- R223, quiet: END in RUNNING completes and leaves every register but RESULT0 and RESULT1 at its reset value, MEM and
CACHE as they are; END in IDLE changes nothing. -/
def Obligations.EndResult : Prop :=
  ∀ s : State,
    (s.idle = true → exec .endMode s = .next s)
    ∧ (s.idle = false → s.quiet → reservedZero s →
        exec .endMode s =
          .next { s with
            stateReg := 0, line := 0, flags := 0, mode := VideoMode.zero, shift := 0, pll := Pll.off
            tmr := LineTimer.stopped, dma0 := Descriptor.zero, dma1 := Descriptor.zero, fb := FrameBuffer.none
            frm := Framer.idle, stream0 := [], stream1 := [] })

/-- R223, R283, for every schedule: after END every register except RESULT0 and RESULT1 holds its reset value; with no RESET
in the gaps those two are unchanged. -/
def Obligations.EndLeavesResetValues : Prop :=
  ∀ s t : State, reservedZero s → s.idle = false → exec .endMode s = .next t →
    RegistersAtReset t ∧ (s.noReset → t.result0 = s.result0 ∧ t.result1 = s.result1)

/-- R223 (b), R281: with the registers at their reset values no agent but CACHE has an enabled step, and CACHE has one only
for a dirty byte. That a step not enabled leaves the state as it is is the model's choice (notes/assumptions/2.md). -/
def Obligations.NoAgentButCacheEnabledAfterReset : Prop :=
  ∀ s : State, RegistersAtReset s →
    exec .tmrStep s = .next s ∧ exec .pllLock s = .next s ∧ exec .shiftOut s = .next s ∧ exec .lineTick s = .next s
    ∧ (∀ c, exec (.dmaBeat c) s = .next s)
    ∧ ∀ addr : Word, memGet s.cache addr.toNat = none → exec (.cacheEvict addr) s = .next s

/-- R225: ROW_POINTER returns `FB_BASE + LBORDER + STRIDE * y` for a row of a RUNNING mode, and 0 otherwise. -/
def Obligations.RowPointerResult : Prop :=
  ∀ (y : Half) (s : State),
    (s.rowInRange y →
      exec (.rowPointer y) s =
        .next { s with
          result0 := BitVec.ofNat 32 (s.fb.base.toNat + s.mode.lborder.toNat + s.mode.stride.toNat * y.toInt.toNat) })
    ∧ (¬ s.rowInRange y → exec (.rowPointer y) s = .next { s with result0 := 0 })

/-- R226, R75, R80: GET_PIXEL returns the host's view of the pixel, zero-extended, and 0 out of range; where a state built
by hand puts the pixel outside the frame buffer it is refused. -/
def Obligations.GetPixelResult : Prop :=
  ∀ (x y : Half) (s : State),
    let a := s.fb.base.toNat + s.mode.lborder.toNat + s.mode.stride.toNat * y.toInt.toNat + x.toInt.toNat
    (s.pixelInRange x y → s.inFrameBuffer a = true →
      exec (.getPixel x y) s = .next { s with result0 := (hostByte Config.chip s a).setWidth 32 })
    ∧ (s.pixelInRange x y → s.inFrameBuffer a = false → exec (.getPixel x y) s = .refused .outsideFrameBuffer)
    ∧ (¬ s.pixelInRange x y → exec (.getPixel x y) s = .next { s with result0 := 0 })

/-- R227, R75, R81: SET_PIXEL writes the one byte of the pixel as the host sees it, leaves MEM and every other byte, and
writes nothing out of range; where a state built by hand puts the pixel outside the frame buffer it is refused. -/
def Obligations.SetPixelResult : Prop :=
  ∀ (x y : Half) (v : Byte) (s : State),
    let a := s.fb.base.toNat + s.mode.lborder.toNat + s.mode.stride.toNat * y.toInt.toNat + x.toInt.toNat
    (s.pixelInRange x y → s.inFrameBuffer a = true →
      ∃ t, exec (.setPixel x y v) s = .next t ∧ t = { s with cache := t.cache }
        ∧ (∀ b, memGet t.cache b = if b = a then some v else memGet s.cache b)
        ∧ ∀ b, hostByte Config.chip t b = if b = a then v else hostByte Config.chip s b)
    ∧ (s.pixelInRange x y → s.inFrameBuffer a = false → exec (.setPixel x y v) s = .refused .outsideFrameBuffer)
    ∧ (¬ s.pixelInRange x y → exec (.setPixel x y v) s = .next s)

/-- R228 to R231, quiet: a row writer in range writes, at pixel `k` of its row, the converted element `floor(k * n / WIDTH)`,
leaves MEM and every other byte, and completes; out of range, or with `n = 0`, it writes nothing. -/
def Obligations.RowWritersResult : Prop :=
  ∀ (y n : Half) (bytes : List Byte) (values : List Half) (s : State),
    bytes.length = n.toNat → values.length = n.toNat →
    let a := s.fb.base.toNat + s.mode.lborder.toNat + s.mode.stride.toNat * y.toInt.toNat
    let w := s.mode.width.toNat
    let source : Nat → Nat := fun x => (x - a) * n.toNat / w
    (s.rowInRange y → 1 ≤ n.toNat → (∀ k, k < w → s.inFrameBuffer (a + k) = true) → s.quiet →
      (∃ t, exec (.writeRowNative y n bytes) s = .next t ∧ t = { s with cache := t.cache }
        ∧ ∀ x, memGet t.cache x = if a ≤ x ∧ x < a + w then bytes[source x]? else memGet s.cache x)
      ∧ (∃ t, exec (.writeRowPal8 y n bytes) s = .next t ∧ t = { s with cache := t.cache }
        ∧ ∀ x, memGet t.cache x =
            if a ≤ x ∧ x < a + w then (bytes[source x]?).map Config.chip.pal else memGet s.cache x)
      ∧ ∃ t, exec (.writeRowRgb565 y n values) s = .next t ∧ t = { s with cache := t.cache }
        ∧ ∀ x, memGet t.cache x =
            if a ≤ x ∧ x < a + w then (values[source x]?).map Config.chip.conv565 else memGet s.cache x)
    ∧ ((¬ s.rowInRange y ∨ n = 0) →
        exec (.writeRowNative y n bytes) s = .next s ∧ exec (.writeRowPal8 y n bytes) s = .next s
        ∧ exec (.writeRowRgb565 y n values) s = .next s)

/-- R232, for every schedule: a row written with WIDTH native pixels reads back pixel by pixel. No RESET in the gaps: it
abandons the write (R280). -/
def Obligations.RowRoundTrip : Prop :=
  ∀ (x y n : Half) (src : List Byte) (s t : State), s.noReset →
    src.length = n.toNat → n.toNat = s.mode.width.toNat → s.pixelInRange x y →
    exec (.writeRowNative y n src) s = .next t →
    ∃ u, exec (.getPixel x y) t = .next u ∧ src[x.toInt.toNat]? = some (u.result0.setWidth 8)

/-- R233, R234, R92: a raw access inside the frame buffer reads or writes the one byte the host sees; outside it, it is
refused. That in a frame buffer at address 0 the byte 0 lies inside, the null pointer of R225 (b) too, is the model's
choice (notes/assumptions/11.md). -/
def Obligations.RawAccessResult : Prop :=
  ∀ (addr : Word) (v : Byte) (s : State),
    let inside := s.fbValid = true ∧ s.fb.base.toNat ≤ addr.toNat ∧ addr.toNat < s.fb.base.toNat + s.fb.size.toNat
    (inside →
      exec (.fbLoad addr) s = .next { s with result0 := (hostByte Config.chip s addr.toNat).setWidth 32 }
      ∧ ∃ t, exec (.fbStore v addr) s = .next t ∧ t = { s with cache := t.cache }
          ∧ (∀ b, memGet t.cache b = if b = addr.toNat then some v else memGet s.cache b)
          ∧ ∀ b, hostByte Config.chip t b = if b = addr.toNat then v else hostByte Config.chip s b)
    ∧ (¬ inside →
        exec (.fbLoad addr) s = .refused .outsideFrameBuffer ∧ exec (.fbStore v addr) s = .refused .outsideFrameBuffer)

/-- R237, R238, R9: FB_ALLOC takes the draw: with a grant the buffer's registers are written and its bytes become
unspecified in MEM; without one nothing changes but the number of the next draw; CACHE keeps its bytes; while a buffer
is allocated, or before the VideoMode registers are written, it is a step not taken. FB_FREE with both channels disarmed
clears the buffer's registers and nothing else; with one armed it is a step not taken. That a step not enabled leaves
the state as it is (notes/assumptions/2.md), that a grant gives a new unspecified value to every byte of MEM that nothing
has written, outside the new range too (notes/assumptions/12.md), and that FB_FREE clears the registers also where no
buffer is allocated (notes/assumptions/18.md), are the model's. -/
def Obligations.AllocAndFreeResult : Prop :=
  ∀ s : State,
    let size := s.mode.stride.toNat * s.mode.height.toNat + Config.chip.fbPad
    (s.fbValid = false → s.mode.gran ≠ 0 →
      match Config.chip.allocDraw s.draws size with
      | none => exec .fbAlloc s = .next { s with draws := s.draws + 1 }
      | some a =>
        a % Config.chip.fbAlign = 0 ∧ a + size ≤ 2 ^ 32
        ∧ ∃ t, exec .fbAlloc s = .next t
          ∧ t = { s with
              fb := { base := BitVec.ofNat 32 a, size := BitVec.ofNat 32 size, ctrl := s.fb.ctrl ||| 1 }
              mem := t.mem, epoch := s.epoch + 1, draws := s.draws + 1 }
          ∧ ∀ x, memGet t.mem x = if a ≤ x ∧ x < a + size then none else memGet s.mem x)
    ∧ ((s.fbValid = true ∨ s.mode.gran = 0) → exec .fbAlloc s = .next s)
    ∧ (s.dma0.erq = false → s.dma1.erq = false →
        exec .fbFree s = .next { s with fb := { base := 0, size := 0, ctrl := s.fb.ctrl &&& ~~~(1 : Word) } })
    ∧ ((s.dma0.erq = true ∨ s.dma1.erq = true) → exec .fbFree s = .next s)

/-- R240, R84, R241, R83: CACHE_FLUSH (quiet) writes back every dirty byte of its range, leaves every other byte, and
changes no byte as the host sees it. CACHE_EVICT writes a dirty byte back and leaves every other byte; a clean byte is
left alone. That a step not enabled leaves the state as it is is the model's choice (notes/assumptions/2.md). -/
def Obligations.CacheOperationsResult : Prop :=
  (∀ (len : Half) (addr : Word) (s : State), s.quiet →
    ∃ t, exec (.cacheFlush len addr) s = .next t ∧ t = { s with mem := t.mem, cache := t.cache }
      ∧ (∀ a, memGet t.cache a =
          if addr.toNat ≤ a ∧ a < addr.toNat + len.toNat then none else memGet s.cache a)
      ∧ (∀ a, memByte Config.chip t a =
          if addr.toNat ≤ a ∧ a < addr.toNat + len.toNat then hostByte Config.chip s a
          else memByte Config.chip s a)
      ∧ ∀ a, hostByte Config.chip t a = hostByte Config.chip s a)
  ∧ ∀ (addr : Word) (s : State),
      (∀ v, memGet s.cache addr.toNat = some v →
        ∃ t, exec (.cacheEvict addr) s = .next t ∧ t = { s with mem := t.mem, cache := t.cache }
          ∧ (∀ a, memGet t.mem a = if a = addr.toNat then some v else memGet s.mem a)
          ∧ ∀ a, memGet t.cache a = if a = addr.toNat then none else memGet s.cache a)
      ∧ (memGet s.cache addr.toNat = none → exec (.cacheEvict addr) s = .next s)
end

