-- ==== Sys2Proof/Laws/Flags.lean ====
section
/-! SUPPORT. Reading a flag of a register after a flag has been written. -/

namespace Sys2Proof.Machine

theorem getLsbD_flagMask (i j : Nat) (hi : i < 32) : (flagMask i).getLsbD j = decide (j = i) := by
  simp only [flagMask, BitVec.getLsbD_shiftLeft, BitVec.getLsbD_one]
  by_cases h : j = i
  · subst h; simp [hi]
  · simp [h]; omega

/-- The bit written reads as written. -/
theorem getFlag_setFlag_same (r : Word) (i : Nat) (v : Bool) (hi : i < 32) : getFlag (setFlag r i v) i = v := by
  cases v
  · simp only [getFlag, setFlag, Bool.false_eq_true, if_false, BitVec.getLsbD_and, BitVec.getLsbD_not,
      getLsbD_flagMask _ _ hi, decide_true, Bool.not_true, Bool.and_false]
  · simp only [getFlag, setFlag, if_true, BitVec.getLsbD_or, getLsbD_flagMask _ _ hi, decide_true, Bool.or_true]

/-- Every other bit reads as before. -/
theorem getFlag_setFlag_ne (r : Word) (i j : Nat) (v : Bool) (hi : i < 32) (h : j ≠ i) :
    getFlag (setFlag r i v) j = getFlag r j := by
  by_cases hj : j < 32
  · cases v
    · simp only [getFlag, setFlag, Bool.false_eq_true, if_false, BitVec.getLsbD_and, BitVec.getLsbD_not,
        getLsbD_flagMask _ _ hi, h, hj, decide_true, decide_false, Bool.not_false, Bool.and_true]
    · simp only [getFlag, setFlag, if_true, BitVec.getLsbD_or, getLsbD_flagMask _ _ hi, h, decide_false,
        Bool.or_false]
  · have hj' : 32 ≤ j := by omega
    simp [getFlag, BitVec.getLsbD_of_ge _ _ hj']

end Sys2Proof.Machine
end

