-- ==== Sys2Proof/Laws/Memory.lean ====
section
/-! SUPPORT. Read after write, and the canonical form, for the sparse maps of Machine/Memory.lean. -/

namespace Sys2Proof.Machine

theorem memGet_memSet_same (m : Memory) (a : Nat) (v : Byte) : memGet (memSet m a v) a = some v := by
  induction m with
  | nil => simp [memSet, memGet]
  | cons x m ih =>
    obtain ⟨b, w⟩ := x
    simp only [memSet]
    split
    · simp [memGet]
    · split
      · simp [memGet]
      · rename_i h; simp [memGet, h, ih]

theorem memGet_memSet_ne (m : Memory) (a a' : Nat) (v : Byte) (h : a' ≠ a) :
    memGet (memSet m a v) a' = memGet m a' := by
  induction m with
  | nil => simp [memSet, memGet, h]
  | cons x m ih =>
    obtain ⟨b, w⟩ := x
    simp only [memSet]
    split
    · simp [memGet, h]
    · split
      · rename_i hb; subst hb; simp [memGet, h]
      · simp only [memGet, ih]

theorem memGet_memErase_same (m : Memory) (a : Nat) : memGet (memErase m a) a = none := by
  induction m with
  | nil => rfl
  | cons x m ih =>
    obtain ⟨b, w⟩ := x
    simp only [memErase, List.filter_cons] at ih ⊢
    split
    · rename_i h
      have : ¬ a = b := fun hab => by subst hab; simp at h
      simpa [memGet, this] using ih
    · exact ih

theorem memGet_memErase_ne (m : Memory) (a a' : Nat) (h : a' ≠ a) : memGet (memErase m a) a' = memGet m a' := by
  induction m with
  | nil => rfl
  | cons x m ih =>
    obtain ⟨b, w⟩ := x
    simp only [memErase, List.filter_cons] at ih ⊢
    split
    · simp only [memGet, ih]
    · rename_i hb
      have : b = a := by simpa using hb
      subst this
      simpa [memGet, h] using ih

/-- Forgetting a range forgets its bytes and no other. -/
theorem memGet_memEraseRange (m : Memory) (a n x : Nat) :
    memGet (memEraseRange m a n) x = if a ≤ x ∧ x < a + n then none else memGet m x := by
  induction m with
  | nil => simp [memEraseRange, memGet]
  | cons y m ih =>
    obtain ⟨b, w⟩ := y
    simp only [memEraseRange, List.filter_cons] at ih ⊢
    split
    · rename_i hb
      simp only [memGet, ih]
      by_cases hx : x = b
      · subst hx
        have : ¬ (a ≤ x ∧ x < a + n) := fun ⟨h1, h2⟩ => by simp [h1, h2] at hb
        simp [this]
      · simp [hx]
    · rename_i hb
      have hb' : a ≤ b ∧ b < a + n := by simpa using hb
      rw [ih]
      by_cases hx : x = b
      · subst hx; simp [hb']
      · simp [memGet, hx]

theorem memGet_lt {m : Memory} (h : m.wf) {a : Nat} {v : Byte} (hv : memGet m a = some v) : a < 2 ^ 32 := by
  obtain ⟨-, hb⟩ := h
  induction m with
  | nil => simp [memGet] at hv
  | cons x m ih =>
    obtain ⟨b, w⟩ := x
    simp only [memGet] at hv
    split at hv
    · rename_i hab; subst hab; exact hb (a, w) (by simp)
    · exact ih hv (fun y hy => hb y (List.mem_cons_of_mem _ hy))

theorem memSet_lower (m : Memory) (a b : Nat) (v : Byte) (hb : b < a) (h : ∀ x ∈ m, b < x.1) :
    ∀ x ∈ memSet m a v, b < x.1 := by
  induction m with
  | nil => simpa [memSet] using hb
  | cons y m ih =>
    obtain ⟨c, w⟩ := y
    have hc : b < c := h (c, w) (by simp)
    have hm : ∀ x ∈ m, b < x.1 := fun x hx => h x (by simp [hx])
    simp only [memSet]
    split
    · intro x hx; simp at hx; rcases hx with rfl | rfl | hx
      · exact hb
      · exact hc
      · exact hm x hx
    · split
      · intro x hx; simp at hx; rcases hx with rfl | hx
        · exact hb
        · exact hm x hx
      · intro x hx; simp at hx; rcases hx with rfl | hx
        · exact hc
        · exact ih hm x hx

/-- A write keeps the canonical form. -/
theorem memSet_wf {m : Memory} (h : m.wf) {a : Nat} (v : Byte) (ha : a < 2 ^ 32) : (memSet m a v).wf := by
  obtain ⟨hp, hb⟩ := h
  induction m with
  | nil => exact ⟨by simp [memSet], by simpa [memSet] using ha⟩
  | cons y m ih =>
    obtain ⟨c, w⟩ := y
    rw [List.pairwise_cons] at hp
    obtain ⟨hhead, hm⟩ := hp
    have hbm : ∀ x ∈ m, x.1 < 2 ^ 32 := fun x hx => hb x (by simp [hx])
    have hc : c < 2 ^ 32 := hb (c, w) (by simp)
    simp only [memSet]
    split
    · rename_i hac
      refine ⟨?_, ?_⟩
      · rw [List.pairwise_cons, List.pairwise_cons]
        refine ⟨?_, hhead, hm⟩
        intro x hx
        rcases List.mem_cons.1 hx with rfl | hx
        · exact hac
        · exact lt_trans hac (hhead x hx)
      · intro x hx
        rcases List.mem_cons.1 hx with rfl | hx
        · exact ha
        · exact hb x hx
    · split
      · rename_i hac
        subst hac
        refine ⟨?_, ?_⟩
        · rw [List.pairwise_cons]; exact ⟨hhead, hm⟩
        · intro x hx
          rcases List.mem_cons.1 hx with rfl | hx
          · exact ha
          · exact hbm x hx
      · rename_i h1 h2
        obtain ⟨hp', hb'⟩ := ih hm hbm
        refine ⟨?_, ?_⟩
        · rw [List.pairwise_cons]
          exact ⟨memSet_lower m a c v (by omega) hhead, hp'⟩
        · intro x hx
          rcases List.mem_cons.1 hx with rfl | hx
          · exact hc
          · exact hb' x hx

theorem filter_wf {m : Memory} (h : m.wf) (p : Host.Cell → Bool) : Memory.wf (List.filter p m) :=
  ⟨h.1.filter p, fun x hx => h.2 x (List.mem_of_mem_filter hx)⟩

/-- Forgetting a byte keeps the canonical form. -/
theorem memErase_wf {m : Memory} (h : m.wf) (a : Nat) : (memErase m a).wf := filter_wf h _

/-- Forgetting a range keeps the canonical form. -/
theorem memEraseRange_wf {m : Memory} (h : m.wf) (a n : Nat) : (memEraseRange m a n).wf := filter_wf h _

theorem reset_mem_wf : State.reset.mem.wf := by decide

theorem reset_cache_wf : State.reset.cache.wf := by decide

end Sys2Proof.Machine
end

