-- ==== Sys2Proof/Laws/State.lean ====
section
/-! SUPPORT. One lemma per field per named update of a record: what the update leaves alone, and what it writes, so that
no proof unfolds an update. -/

namespace Sys2Proof.Machine


/-! ## FLAGS -/

@[simp] theorem State.setFlags_stateReg (s : State) (i : Nat) (v : Bool) : (s.setFlags i v).stateReg = s.stateReg := rfl
@[simp] theorem State.setFlags_result0 (s : State) (i : Nat) (v : Bool) : (s.setFlags i v).result0 = s.result0 := rfl
@[simp] theorem State.setFlags_result1 (s : State) (i : Nat) (v : Bool) : (s.setFlags i v).result1 = s.result1 := rfl
@[simp] theorem State.setFlags_line (s : State) (i : Nat) (v : Bool) : (s.setFlags i v).line = s.line := rfl
@[simp] theorem State.setFlags_mode (s : State) (i : Nat) (v : Bool) : (s.setFlags i v).mode = s.mode := rfl
@[simp] theorem State.setFlags_shift (s : State) (i : Nat) (v : Bool) : (s.setFlags i v).shift = s.shift := rfl
@[simp] theorem State.setFlags_pll (s : State) (i : Nat) (v : Bool) : (s.setFlags i v).pll = s.pll := rfl
@[simp] theorem State.setFlags_tmr (s : State) (i : Nat) (v : Bool) : (s.setFlags i v).tmr = s.tmr := rfl
@[simp] theorem State.setFlags_dma0 (s : State) (i : Nat) (v : Bool) : (s.setFlags i v).dma0 = s.dma0 := rfl
@[simp] theorem State.setFlags_dma1 (s : State) (i : Nat) (v : Bool) : (s.setFlags i v).dma1 = s.dma1 := rfl
@[simp] theorem State.setFlags_fb (s : State) (i : Nat) (v : Bool) : (s.setFlags i v).fb = s.fb := rfl
@[simp] theorem State.setFlags_frm (s : State) (i : Nat) (v : Bool) : (s.setFlags i v).frm = s.frm := rfl
@[simp] theorem State.setFlags_stream0 (s : State) (i : Nat) (v : Bool) : (s.setFlags i v).stream0 = s.stream0 := rfl
@[simp] theorem State.setFlags_stream1 (s : State) (i : Nat) (v : Bool) : (s.setFlags i v).stream1 = s.stream1 := rfl
@[simp] theorem State.setFlags_mem (s : State) (i : Nat) (v : Bool) : (s.setFlags i v).mem = s.mem := rfl
@[simp] theorem State.setFlags_cache (s : State) (i : Nat) (v : Bool) : (s.setFlags i v).cache = s.cache := rfl
@[simp] theorem State.setFlags_epoch (s : State) (i : Nat) (v : Bool) : (s.setFlags i v).epoch = s.epoch := rfl
@[simp] theorem State.setFlags_draws (s : State) (i : Nat) (v : Bool) : (s.setFlags i v).draws = s.draws := rfl
@[simp] theorem State.setFlags_cmd (s : State) (i : Nat) (v : Bool) : (s.setFlags i v).cmd = s.cmd := rfl
@[simp] theorem State.setFlags_data (s : State) (i : Nat) (v : Bool) : (s.setFlags i v).data = s.data := rfl
@[simp] theorem State.setFlags_pending (s : State) (i : Nat) (v : Bool) : (s.setFlags i v).pending = s.pending := rfl
@[simp] theorem State.setFlags_agenda (s : State) (i : Nat) (v : Bool) : (s.setFlags i v).agenda = s.agenda := rfl
@[simp] theorem State.setFlags_gaps (s : State) (i : Nat) (v : Bool) : (s.setFlags i v).gaps = s.gaps := rfl
@[simp] theorem State.setFlags_shown (s : State) (i : Nat) (v : Bool) : (s.setFlags i v).shown = s.shown := rfl
@[simp] theorem State.setFlags_flags (s : State) (i : Nat) (v : Bool) : (s.setFlags i v).flags = setFlag s.flags i v := rfl

/-! ## PLL_CTRL -/

@[simp] theorem State.setPllEnable_stateReg (s : State) (v : Bool) : (s.setPllEnable v).stateReg = s.stateReg := rfl
@[simp] theorem State.setPllEnable_result0 (s : State) (v : Bool) : (s.setPllEnable v).result0 = s.result0 := rfl
@[simp] theorem State.setPllEnable_result1 (s : State) (v : Bool) : (s.setPllEnable v).result1 = s.result1 := rfl
@[simp] theorem State.setPllEnable_line (s : State) (v : Bool) : (s.setPllEnable v).line = s.line := rfl
@[simp] theorem State.setPllEnable_flags (s : State) (v : Bool) : (s.setPllEnable v).flags = s.flags := rfl
@[simp] theorem State.setPllEnable_mode (s : State) (v : Bool) : (s.setPllEnable v).mode = s.mode := rfl
@[simp] theorem State.setPllEnable_shift (s : State) (v : Bool) : (s.setPllEnable v).shift = s.shift := rfl
@[simp] theorem State.setPllEnable_tmr (s : State) (v : Bool) : (s.setPllEnable v).tmr = s.tmr := rfl
@[simp] theorem State.setPllEnable_dma0 (s : State) (v : Bool) : (s.setPllEnable v).dma0 = s.dma0 := rfl
@[simp] theorem State.setPllEnable_dma1 (s : State) (v : Bool) : (s.setPllEnable v).dma1 = s.dma1 := rfl
@[simp] theorem State.setPllEnable_fb (s : State) (v : Bool) : (s.setPllEnable v).fb = s.fb := rfl
@[simp] theorem State.setPllEnable_frm (s : State) (v : Bool) : (s.setPllEnable v).frm = s.frm := rfl
@[simp] theorem State.setPllEnable_stream0 (s : State) (v : Bool) : (s.setPllEnable v).stream0 = s.stream0 := rfl
@[simp] theorem State.setPllEnable_stream1 (s : State) (v : Bool) : (s.setPllEnable v).stream1 = s.stream1 := rfl
@[simp] theorem State.setPllEnable_mem (s : State) (v : Bool) : (s.setPllEnable v).mem = s.mem := rfl
@[simp] theorem State.setPllEnable_cache (s : State) (v : Bool) : (s.setPllEnable v).cache = s.cache := rfl
@[simp] theorem State.setPllEnable_epoch (s : State) (v : Bool) : (s.setPllEnable v).epoch = s.epoch := rfl
@[simp] theorem State.setPllEnable_draws (s : State) (v : Bool) : (s.setPllEnable v).draws = s.draws := rfl
@[simp] theorem State.setPllEnable_cmd (s : State) (v : Bool) : (s.setPllEnable v).cmd = s.cmd := rfl
@[simp] theorem State.setPllEnable_data (s : State) (v : Bool) : (s.setPllEnable v).data = s.data := rfl
@[simp] theorem State.setPllEnable_pending (s : State) (v : Bool) : (s.setPllEnable v).pending = s.pending := rfl
@[simp] theorem State.setPllEnable_agenda (s : State) (v : Bool) : (s.setPllEnable v).agenda = s.agenda := rfl
@[simp] theorem State.setPllEnable_gaps (s : State) (v : Bool) : (s.setPllEnable v).gaps = s.gaps := rfl
@[simp] theorem State.setPllEnable_shown (s : State) (v : Bool) : (s.setPllEnable v).shown = s.shown := rfl
@[simp] theorem State.setPllEnable_pll_div (s : State) (v : Bool) : (s.setPllEnable v).pll.div = s.pll.div := rfl
@[simp] theorem State.setPllEnable_pll_num (s : State) (v : Bool) : (s.setPllEnable v).pll.num = s.pll.num := rfl
@[simp] theorem State.setPllEnable_pll_denom (s : State) (v : Bool) : (s.setPllEnable v).pll.denom = s.pll.denom := rfl
@[simp] theorem State.setPllEnable_pll_ctrl (s : State) (v : Bool) : (s.setPllEnable v).pll.ctrl = setFlag s.pll.ctrl 0 v := rfl
@[simp] theorem State.setPllLock_stateReg (s : State) (v : Bool) : (s.setPllLock v).stateReg = s.stateReg := rfl
@[simp] theorem State.setPllLock_result0 (s : State) (v : Bool) : (s.setPllLock v).result0 = s.result0 := rfl
@[simp] theorem State.setPllLock_result1 (s : State) (v : Bool) : (s.setPllLock v).result1 = s.result1 := rfl
@[simp] theorem State.setPllLock_line (s : State) (v : Bool) : (s.setPllLock v).line = s.line := rfl
@[simp] theorem State.setPllLock_flags (s : State) (v : Bool) : (s.setPllLock v).flags = s.flags := rfl
@[simp] theorem State.setPllLock_mode (s : State) (v : Bool) : (s.setPllLock v).mode = s.mode := rfl
@[simp] theorem State.setPllLock_shift (s : State) (v : Bool) : (s.setPllLock v).shift = s.shift := rfl
@[simp] theorem State.setPllLock_tmr (s : State) (v : Bool) : (s.setPllLock v).tmr = s.tmr := rfl
@[simp] theorem State.setPllLock_dma0 (s : State) (v : Bool) : (s.setPllLock v).dma0 = s.dma0 := rfl
@[simp] theorem State.setPllLock_dma1 (s : State) (v : Bool) : (s.setPllLock v).dma1 = s.dma1 := rfl
@[simp] theorem State.setPllLock_fb (s : State) (v : Bool) : (s.setPllLock v).fb = s.fb := rfl
@[simp] theorem State.setPllLock_frm (s : State) (v : Bool) : (s.setPllLock v).frm = s.frm := rfl
@[simp] theorem State.setPllLock_stream0 (s : State) (v : Bool) : (s.setPllLock v).stream0 = s.stream0 := rfl
@[simp] theorem State.setPllLock_stream1 (s : State) (v : Bool) : (s.setPllLock v).stream1 = s.stream1 := rfl
@[simp] theorem State.setPllLock_mem (s : State) (v : Bool) : (s.setPllLock v).mem = s.mem := rfl
@[simp] theorem State.setPllLock_cache (s : State) (v : Bool) : (s.setPllLock v).cache = s.cache := rfl
@[simp] theorem State.setPllLock_epoch (s : State) (v : Bool) : (s.setPllLock v).epoch = s.epoch := rfl
@[simp] theorem State.setPllLock_draws (s : State) (v : Bool) : (s.setPllLock v).draws = s.draws := rfl
@[simp] theorem State.setPllLock_cmd (s : State) (v : Bool) : (s.setPllLock v).cmd = s.cmd := rfl
@[simp] theorem State.setPllLock_data (s : State) (v : Bool) : (s.setPllLock v).data = s.data := rfl
@[simp] theorem State.setPllLock_pending (s : State) (v : Bool) : (s.setPllLock v).pending = s.pending := rfl
@[simp] theorem State.setPllLock_agenda (s : State) (v : Bool) : (s.setPllLock v).agenda = s.agenda := rfl
@[simp] theorem State.setPllLock_gaps (s : State) (v : Bool) : (s.setPllLock v).gaps = s.gaps := rfl
@[simp] theorem State.setPllLock_shown (s : State) (v : Bool) : (s.setPllLock v).shown = s.shown := rfl
@[simp] theorem State.setPllLock_pll_div (s : State) (v : Bool) : (s.setPllLock v).pll.div = s.pll.div := rfl
@[simp] theorem State.setPllLock_pll_num (s : State) (v : Bool) : (s.setPllLock v).pll.num = s.pll.num := rfl
@[simp] theorem State.setPllLock_pll_denom (s : State) (v : Bool) : (s.setPllLock v).pll.denom = s.pll.denom := rfl
@[simp] theorem State.setPllLock_pll_ctrl (s : State) (v : Bool) : (s.setPllLock v).pll.ctrl = setFlag s.pll.ctrl 31 v := rfl

/-! ## Channels and streams -/

@[simp] theorem State.setChan_stateReg (s : State) (c : Channel) (d : Descriptor) : (s.setChan c d).stateReg = s.stateReg := by cases c <;> rfl
@[simp] theorem State.setChan_result0 (s : State) (c : Channel) (d : Descriptor) : (s.setChan c d).result0 = s.result0 := by cases c <;> rfl
@[simp] theorem State.setChan_result1 (s : State) (c : Channel) (d : Descriptor) : (s.setChan c d).result1 = s.result1 := by cases c <;> rfl
@[simp] theorem State.setChan_line (s : State) (c : Channel) (d : Descriptor) : (s.setChan c d).line = s.line := by cases c <;> rfl
@[simp] theorem State.setChan_flags (s : State) (c : Channel) (d : Descriptor) : (s.setChan c d).flags = s.flags := by cases c <;> rfl
@[simp] theorem State.setChan_mode (s : State) (c : Channel) (d : Descriptor) : (s.setChan c d).mode = s.mode := by cases c <;> rfl
@[simp] theorem State.setChan_shift (s : State) (c : Channel) (d : Descriptor) : (s.setChan c d).shift = s.shift := by cases c <;> rfl
@[simp] theorem State.setChan_pll (s : State) (c : Channel) (d : Descriptor) : (s.setChan c d).pll = s.pll := by cases c <;> rfl
@[simp] theorem State.setChan_tmr (s : State) (c : Channel) (d : Descriptor) : (s.setChan c d).tmr = s.tmr := by cases c <;> rfl
@[simp] theorem State.setChan_fb (s : State) (c : Channel) (d : Descriptor) : (s.setChan c d).fb = s.fb := by cases c <;> rfl
@[simp] theorem State.setChan_frm (s : State) (c : Channel) (d : Descriptor) : (s.setChan c d).frm = s.frm := by cases c <;> rfl
@[simp] theorem State.setChan_stream0 (s : State) (c : Channel) (d : Descriptor) : (s.setChan c d).stream0 = s.stream0 := by cases c <;> rfl
@[simp] theorem State.setChan_stream1 (s : State) (c : Channel) (d : Descriptor) : (s.setChan c d).stream1 = s.stream1 := by cases c <;> rfl
@[simp] theorem State.setChan_mem (s : State) (c : Channel) (d : Descriptor) : (s.setChan c d).mem = s.mem := by cases c <;> rfl
@[simp] theorem State.setChan_cache (s : State) (c : Channel) (d : Descriptor) : (s.setChan c d).cache = s.cache := by cases c <;> rfl
@[simp] theorem State.setChan_epoch (s : State) (c : Channel) (d : Descriptor) : (s.setChan c d).epoch = s.epoch := by cases c <;> rfl
@[simp] theorem State.setChan_draws (s : State) (c : Channel) (d : Descriptor) : (s.setChan c d).draws = s.draws := by cases c <;> rfl
@[simp] theorem State.setChan_cmd (s : State) (c : Channel) (d : Descriptor) : (s.setChan c d).cmd = s.cmd := by cases c <;> rfl
@[simp] theorem State.setChan_data (s : State) (c : Channel) (d : Descriptor) : (s.setChan c d).data = s.data := by cases c <;> rfl
@[simp] theorem State.setChan_pending (s : State) (c : Channel) (d : Descriptor) : (s.setChan c d).pending = s.pending := by cases c <;> rfl
@[simp] theorem State.setChan_agenda (s : State) (c : Channel) (d : Descriptor) : (s.setChan c d).agenda = s.agenda := by cases c <;> rfl
@[simp] theorem State.setChan_gaps (s : State) (c : Channel) (d : Descriptor) : (s.setChan c d).gaps = s.gaps := by cases c <;> rfl
@[simp] theorem State.setChan_shown (s : State) (c : Channel) (d : Descriptor) : (s.setChan c d).shown = s.shown := by cases c <;> rfl
@[simp] theorem State.setChan_primary (s : State) (d : Descriptor) : s.setChan .primary d = { s with dma0 := d } := rfl
@[simp] theorem State.setChan_secondary (s : State) (d : Descriptor) : s.setChan .secondary d = { s with dma1 := d } := rfl
@[simp] theorem State.chan_primary (s : State) : s.chan .primary = s.dma0 := rfl
@[simp] theorem State.chan_secondary (s : State) : s.chan .secondary = s.dma1 := rfl
@[simp] theorem State.chan_setChan (s : State) (c : Channel) (d : Descriptor) : (s.setChan c d).chan c = d := by cases c <;> rfl
@[simp] theorem State.setStream_stateReg (s : State) (c : Channel) (bs : List Byte) : (s.setStream c bs).stateReg = s.stateReg := by cases c <;> rfl
@[simp] theorem State.setStream_result0 (s : State) (c : Channel) (bs : List Byte) : (s.setStream c bs).result0 = s.result0 := by cases c <;> rfl
@[simp] theorem State.setStream_result1 (s : State) (c : Channel) (bs : List Byte) : (s.setStream c bs).result1 = s.result1 := by cases c <;> rfl
@[simp] theorem State.setStream_line (s : State) (c : Channel) (bs : List Byte) : (s.setStream c bs).line = s.line := by cases c <;> rfl
@[simp] theorem State.setStream_flags (s : State) (c : Channel) (bs : List Byte) : (s.setStream c bs).flags = s.flags := by cases c <;> rfl
@[simp] theorem State.setStream_mode (s : State) (c : Channel) (bs : List Byte) : (s.setStream c bs).mode = s.mode := by cases c <;> rfl
@[simp] theorem State.setStream_shift (s : State) (c : Channel) (bs : List Byte) : (s.setStream c bs).shift = s.shift := by cases c <;> rfl
@[simp] theorem State.setStream_pll (s : State) (c : Channel) (bs : List Byte) : (s.setStream c bs).pll = s.pll := by cases c <;> rfl
@[simp] theorem State.setStream_tmr (s : State) (c : Channel) (bs : List Byte) : (s.setStream c bs).tmr = s.tmr := by cases c <;> rfl
@[simp] theorem State.setStream_dma0 (s : State) (c : Channel) (bs : List Byte) : (s.setStream c bs).dma0 = s.dma0 := by cases c <;> rfl
@[simp] theorem State.setStream_dma1 (s : State) (c : Channel) (bs : List Byte) : (s.setStream c bs).dma1 = s.dma1 := by cases c <;> rfl
@[simp] theorem State.setStream_fb (s : State) (c : Channel) (bs : List Byte) : (s.setStream c bs).fb = s.fb := by cases c <;> rfl
@[simp] theorem State.setStream_frm (s : State) (c : Channel) (bs : List Byte) : (s.setStream c bs).frm = s.frm := by cases c <;> rfl
@[simp] theorem State.setStream_mem (s : State) (c : Channel) (bs : List Byte) : (s.setStream c bs).mem = s.mem := by cases c <;> rfl
@[simp] theorem State.setStream_cache (s : State) (c : Channel) (bs : List Byte) : (s.setStream c bs).cache = s.cache := by cases c <;> rfl
@[simp] theorem State.setStream_epoch (s : State) (c : Channel) (bs : List Byte) : (s.setStream c bs).epoch = s.epoch := by cases c <;> rfl
@[simp] theorem State.setStream_draws (s : State) (c : Channel) (bs : List Byte) : (s.setStream c bs).draws = s.draws := by cases c <;> rfl
@[simp] theorem State.setStream_cmd (s : State) (c : Channel) (bs : List Byte) : (s.setStream c bs).cmd = s.cmd := by cases c <;> rfl
@[simp] theorem State.setStream_data (s : State) (c : Channel) (bs : List Byte) : (s.setStream c bs).data = s.data := by cases c <;> rfl
@[simp] theorem State.setStream_pending (s : State) (c : Channel) (bs : List Byte) : (s.setStream c bs).pending = s.pending := by cases c <;> rfl
@[simp] theorem State.setStream_agenda (s : State) (c : Channel) (bs : List Byte) : (s.setStream c bs).agenda = s.agenda := by cases c <;> rfl
@[simp] theorem State.setStream_gaps (s : State) (c : Channel) (bs : List Byte) : (s.setStream c bs).gaps = s.gaps := by cases c <;> rfl
@[simp] theorem State.setStream_shown (s : State) (c : Channel) (bs : List Byte) : (s.setStream c bs).shown = s.shown := by cases c <;> rfl
@[simp] theorem State.setStream_primary (s : State) (bs : List Byte) : s.setStream .primary bs = { s with stream0 := bs } := rfl
@[simp] theorem State.setStream_secondary (s : State) (bs : List Byte) : s.setStream .secondary bs = { s with stream1 := bs } := rfl
@[simp] theorem State.stream_primary (s : State) : s.stream .primary = s.stream0 := rfl
@[simp] theorem State.stream_secondary (s : State) : s.stream .secondary = s.stream1 := rfl
@[simp] theorem State.stream_setStream (s : State) (c : Channel) (bs : List Byte) : (s.setStream c bs).stream c = bs := by cases c <;> rfl
@[simp] theorem State.chan_setStream (s : State) (c c' : Channel) (bs : List Byte) : (s.setStream c bs).chan c' = s.chan c' := by cases c <;> cases c' <;> rfl
@[simp] theorem State.stream_setChan (s : State) (c c' : Channel) (d : Descriptor) : (s.setChan c d).stream c' = s.stream c' := by cases c <;> cases c' <;> rfl

/-! ## Descriptors, the timer and the framer -/

@[simp] theorem Descriptor.setErq_saddr (d : Descriptor) (v : Bool) : (d.setErq v).saddr = d.saddr := rfl
@[simp] theorem Descriptor.setErq_daddr (d : Descriptor) (v : Bool) : (d.setErq v).daddr = d.daddr := rfl
@[simp] theorem Descriptor.setErq_beat (d : Descriptor) (v : Bool) : (d.setErq v).beat = d.beat := rfl
@[simp] theorem Descriptor.setErq_count (d : Descriptor) (v : Bool) : (d.setErq v).count = d.count := rfl
@[simp] theorem Descriptor.setErq_rem (d : Descriptor) (v : Bool) : (d.setErq v).rem = d.rem := rfl
@[simp] theorem Descriptor.setErq_slast (d : Descriptor) (v : Bool) : (d.setErq v).slast = d.slast := rfl
@[simp] theorem Descriptor.setErq_dcsr (d : Descriptor) (v : Bool) : (d.setErq v).dcsr = setFlag d.dcsr 0 v := rfl
@[simp] theorem Descriptor.setDreq_saddr (d : Descriptor) (v : Bool) : (d.setDreq v).saddr = d.saddr := rfl
@[simp] theorem Descriptor.setDreq_daddr (d : Descriptor) (v : Bool) : (d.setDreq v).daddr = d.daddr := rfl
@[simp] theorem Descriptor.setDreq_beat (d : Descriptor) (v : Bool) : (d.setDreq v).beat = d.beat := rfl
@[simp] theorem Descriptor.setDreq_count (d : Descriptor) (v : Bool) : (d.setDreq v).count = d.count := rfl
@[simp] theorem Descriptor.setDreq_rem (d : Descriptor) (v : Bool) : (d.setDreq v).rem = d.rem := rfl
@[simp] theorem Descriptor.setDreq_slast (d : Descriptor) (v : Bool) : (d.setDreq v).slast = d.slast := rfl
@[simp] theorem Descriptor.setDreq_dcsr (d : Descriptor) (v : Bool) : (d.setDreq v).dcsr = setFlag d.dcsr 1 v := rfl
@[simp] theorem Descriptor.setDone_saddr (d : Descriptor) (v : Bool) : (d.setDone v).saddr = d.saddr := rfl
@[simp] theorem Descriptor.setDone_daddr (d : Descriptor) (v : Bool) : (d.setDone v).daddr = d.daddr := rfl
@[simp] theorem Descriptor.setDone_beat (d : Descriptor) (v : Bool) : (d.setDone v).beat = d.beat := rfl
@[simp] theorem Descriptor.setDone_count (d : Descriptor) (v : Bool) : (d.setDone v).count = d.count := rfl
@[simp] theorem Descriptor.setDone_rem (d : Descriptor) (v : Bool) : (d.setDone v).rem = d.rem := rfl
@[simp] theorem Descriptor.setDone_slast (d : Descriptor) (v : Bool) : (d.setDone v).slast = d.slast := rfl
@[simp] theorem Descriptor.setDone_dcsr (d : Descriptor) (v : Bool) : (d.setDone v).dcsr = setFlag d.dcsr 2 v := rfl
@[simp] theorem LineTimer.setCtrl_cnt (t : LineTimer) (i : Nat) (v : Bool) : (t.setCtrl i v).cnt = t.cnt := rfl
@[simp] theorem LineTimer.setCtrl_cmp1 (t : LineTimer) (i : Nat) (v : Bool) : (t.setCtrl i v).cmp1 = t.cmp1 := rfl
@[simp] theorem LineTimer.setCtrl_cmp2 (t : LineTimer) (i : Nat) (v : Bool) : (t.setCtrl i v).cmp2 = t.cmp2 := rfl
@[simp] theorem LineTimer.setCtrl_ctrl (t : LineTimer) (i : Nat) (v : Bool) : (t.setCtrl i v).ctrl = setFlag t.ctrl i v := rfl
@[simp] theorem Framer.setActive_px (f : Framer) (v : Bool) : (f.setActive v).px = f.px := rfl
@[simp] theorem Framer.setActive_color (f : Framer) (v : Bool) : (f.setActive v).color = f.color := rfl
@[simp] theorem Framer.setActive_ctrl (f : Framer) (v : Bool) : (f.setActive v).ctrl = setFlag f.ctrl 0 v := rfl
@[simp] theorem Framer.setCorrupt_px (f : Framer) (v : Bool) : (f.setCorrupt v).px = f.px := rfl
@[simp] theorem Framer.setCorrupt_color (f : Framer) (v : Bool) : (f.setCorrupt v).color = f.color := rfl
@[simp] theorem Framer.setCorrupt_ctrl (f : Framer) (v : Bool) : (f.setCorrupt v).ctrl = setFlag f.ctrl 1 v := rfl

/-! ## The observable output and the RESET event -/

@[simp] theorem State.record_stateReg (s : State) : s.record.stateReg = s.stateReg := rfl
@[simp] theorem State.record_result0 (s : State) : s.record.result0 = s.result0 := rfl
@[simp] theorem State.record_result1 (s : State) : s.record.result1 = s.result1 := rfl
@[simp] theorem State.record_line (s : State) : s.record.line = s.line := rfl
@[simp] theorem State.record_flags (s : State) : s.record.flags = s.flags := rfl
@[simp] theorem State.record_mode (s : State) : s.record.mode = s.mode := rfl
@[simp] theorem State.record_shift (s : State) : s.record.shift = s.shift := rfl
@[simp] theorem State.record_pll (s : State) : s.record.pll = s.pll := rfl
@[simp] theorem State.record_tmr (s : State) : s.record.tmr = s.tmr := rfl
@[simp] theorem State.record_dma0 (s : State) : s.record.dma0 = s.dma0 := rfl
@[simp] theorem State.record_dma1 (s : State) : s.record.dma1 = s.dma1 := rfl
@[simp] theorem State.record_fb (s : State) : s.record.fb = s.fb := rfl
@[simp] theorem State.record_frm (s : State) : s.record.frm = s.frm := rfl
@[simp] theorem State.record_stream0 (s : State) : s.record.stream0 = s.stream0 := rfl
@[simp] theorem State.record_stream1 (s : State) : s.record.stream1 = s.stream1 := rfl
@[simp] theorem State.record_mem (s : State) : s.record.mem = s.mem := rfl
@[simp] theorem State.record_cache (s : State) : s.record.cache = s.cache := rfl
@[simp] theorem State.record_epoch (s : State) : s.record.epoch = s.epoch := rfl
@[simp] theorem State.record_draws (s : State) : s.record.draws = s.draws := rfl
@[simp] theorem State.record_cmd (s : State) : s.record.cmd = s.cmd := rfl
@[simp] theorem State.record_data (s : State) : s.record.data = s.data := rfl
@[simp] theorem State.record_pending (s : State) : s.record.pending = s.pending := rfl
@[simp] theorem State.record_agenda (s : State) : s.record.agenda = s.agenda := rfl
@[simp] theorem State.record_gaps (s : State) : s.record.gaps = s.gaps := rfl
@[simp] theorem State.record_shown (s : State) : s.record.shown = s.sample :: s.shown := rfl
@[simp] theorem State.record_sample (s : State) : s.record.sample = s.sample := rfl
@[simp] theorem resetEvent_stateReg (s : State) : (resetEvent s).stateReg = 0 := rfl
@[simp] theorem resetEvent_result0 (s : State) : (resetEvent s).result0 = 0 := rfl
@[simp] theorem resetEvent_result1 (s : State) : (resetEvent s).result1 = 0 := rfl
@[simp] theorem resetEvent_line (s : State) : (resetEvent s).line = 0 := rfl
@[simp] theorem resetEvent_flags (s : State) : (resetEvent s).flags = 0 := rfl
@[simp] theorem resetEvent_mode (s : State) : (resetEvent s).mode = VideoMode.zero := rfl
@[simp] theorem resetEvent_shift (s : State) : (resetEvent s).shift = 0 := rfl
@[simp] theorem resetEvent_pll (s : State) : (resetEvent s).pll = Pll.off := rfl
@[simp] theorem resetEvent_tmr (s : State) : (resetEvent s).tmr = LineTimer.stopped := rfl
@[simp] theorem resetEvent_dma0 (s : State) : (resetEvent s).dma0 = Descriptor.zero := rfl
@[simp] theorem resetEvent_dma1 (s : State) : (resetEvent s).dma1 = Descriptor.zero := rfl
@[simp] theorem resetEvent_fb (s : State) : (resetEvent s).fb = FrameBuffer.none := rfl
@[simp] theorem resetEvent_frm (s : State) : (resetEvent s).frm = Framer.idle := rfl
@[simp] theorem resetEvent_stream0 (s : State) : (resetEvent s).stream0 = [] := rfl
@[simp] theorem resetEvent_stream1 (s : State) : (resetEvent s).stream1 = [] := rfl
@[simp] theorem resetEvent_mem (s : State) : (resetEvent s).mem = s.mem := rfl
@[simp] theorem resetEvent_cache (s : State) : (resetEvent s).cache = [] := rfl
@[simp] theorem resetEvent_epoch (s : State) : (resetEvent s).epoch = s.epoch := rfl
@[simp] theorem resetEvent_draws (s : State) : (resetEvent s).draws = s.draws := rfl
@[simp] theorem resetEvent_cmd (s : State) : (resetEvent s).cmd = s.cmd := rfl
@[simp] theorem resetEvent_data (s : State) : (resetEvent s).data = s.data := rfl
@[simp] theorem resetEvent_pending (s : State) : (resetEvent s).pending = none := rfl
@[simp] theorem resetEvent_agenda (s : State) : (resetEvent s).agenda = s.agenda := rfl
@[simp] theorem resetEvent_gaps (s : State) : (resetEvent s).gaps = s.gaps := rfl
@[simp] theorem resetEvent_shown (s : State) : (resetEvent s).shown = s.shown := rfl

/-! ## Outcomes -/

@[simp] theorem andThen_next {α β : Type} (a : α) (f : α → Flow β) : andThen (.next a) f = f a := rfl
@[simp] theorem andThen_abandoned {α β : Type} (s : State) (f : α → Flow β) : andThen (.abandoned s) f = .abandoned s := rfl
@[simp] theorem andThen_refused {α β : Type} (e : Refusal) (f : α → Flow β) : andThen (.refused e) f = .refused e := rfl
@[simp] theorem assign_eq (f : State → State) (s : State) : assign f s = .next (f s) := rfl
@[simp] theorem settle_next (s : State) : settle (.next s) = .next s := rfl
@[simp] theorem settle_abandoned (s : State) : settle (.abandoned s) = .next s := rfl
@[simp] theorem settle_refused (e : Refusal) : settle (.refused e) = .refused e := rfl
@[simp] theorem asPart_next (s : State) : asPart (.next s) = .next s := rfl
@[simp] theorem asPart_refused (e : Refusal) : asPart (.refused e) = .refused e := rfl

/-- A composite that goes on passes through a part that goes on. -/
theorem andThen_eq_next {α β : Type} {r : Flow α} {f : α → Flow β} {b : β} (h : andThen r f = .next b) :
    ∃ a, r = .next a ∧ f a = .next b := by
  cases r with
  | next a => exact ⟨a, rfl, h⟩
  | abandoned s => cases h
  | refused e => cases h

/-- A composite that is abandoned is abandoned in its first part or in the rest. -/
theorem andThen_eq_abandoned {α β : Type} {r : Flow α} {f : α → Flow β} {t : State} (h : andThen r f = .abandoned t) :
    r = .abandoned t ∨ ∃ a, r = .next a ∧ f a = .abandoned t := by
  cases r with
  | next a => exact .inr ⟨a, rfl, h⟩
  | abandoned s => cases h; exact .inl rfl
  | refused e => cases h

/-- An indivisible part goes on where the operation it is answers a next state, and is never abandoned. -/
theorem asPart_eq_next {r : Result} {t : State} (h : asPart r = .next t) : r = .next t := by
  cases r with
  | next s => cases h; rfl
  | fault e => cases e
  | refused e => cases h

theorem asPart_ne_abandoned {r : Result} {t : State} : asPart r ≠ .abandoned t := by
  intro h
  cases r with
  | next s => cases h
  | fault e => cases e
  | refused e => cases h

/-- A whole operation answers the state its parts went on to, or the one the RESET event left. -/
theorem settle_eq_next {r : Flow State} {t : State} (h : settle r = .next t) : r = .next t ∨ r = .abandoned t := by
  cases r with
  | next s => cases h; exact .inl rfl
  | abandoned s => cases h; exact .inr rfl
  | refused e => cases h

end Sys2Proof.Machine
end

