-- ==== Sys2Proof/Laws/Ops.lean ====
section
/-! SUPPORT. What each shared operation over registers and memory does, said once. -/

namespace Sys2Proof

/-- R9, R237: a grant is aligned and fits below 2^32. -/
theorem Config.allocDraw_law {C : Config} {draw size a : Nat} (h : C.allocDraw draw size = some a) :
    a % C.fbAlign = 0 ∧ a + size ≤ 2 ^ 32 := by
  simp only [allocDraw] at h
  split at h
  · cases h
  · split at h
    · rename_i hlaw; cases h; exact hlaw
    · cases h

end Sys2Proof

namespace Sys2Proof.Machine

/-! ## Flags after an update -/

theorem takeLineInterrupt_irqMasked (s : State) : (takeLineInterrupt s).irqMasked = true :=
  getFlag_setFlag_same _ _ _ (by decide)

theorem returnFromInterrupt_irqMasked (s : State) : (returnFromInterrupt s).irqMasked = false :=
  getFlag_setFlag_same _ _ _ (by decide)

@[simp] theorem setPllLock_pllLocked (s : State) (v : Bool) : (s.setPllLock v).pllLocked = v :=
  getFlag_setFlag_same _ _ _ (by decide)

@[simp] theorem setPllLock_pllEnabled (s : State) (v : Bool) : (s.setPllLock v).pllEnabled = s.pllEnabled :=
  getFlag_setFlag_ne _ _ _ _ (by decide) (by decide)

@[simp] theorem setPllEnable_pllEnabled (s : State) (v : Bool) : (s.setPllEnable v).pllEnabled = v :=
  getFlag_setFlag_same _ _ _ (by decide)

@[simp] theorem setPllEnable_pllLocked (s : State) (v : Bool) : (s.setPllEnable v).pllLocked = s.pllLocked :=
  getFlag_setFlag_ne _ _ _ _ (by decide) (by decide)

/-! ## Host accesses (R80, R81) -/

theorem loadByte_of_inside {C : Config} {a : Nat} {s : State} (h : s.inFrameBuffer a = true) :
    loadByte C a s = .next { s with result0 := zextByte (hostByte C s a) } := by simp [loadByte, h]

theorem storeByte_of_inside {a : Nat} {v : Byte} {s : State} (h : s.inFrameBuffer a = true) :
    storeByte a v s = .next { s with cache := memSet s.cache a v } := by simp [storeByte, h]

/-- A load answers a next state only inside the frame buffer, and writes RESULT0 alone. -/
theorem loadByte_cases {C : Config} {a : Nat} {s t : State} (h : loadByte C a s = .next t) :
    s.inFrameBuffer a = true ∧ t = { s with result0 := zextByte (hostByte C s a) } := by
  simp only [loadByte] at h
  split at h
  · rename_i hin; cases h; exact ⟨hin, rfl⟩
  · cases h

/-- A store answers a next state only inside the frame buffer, and writes one dirty byte alone. -/
theorem storeByte_cases {a : Nat} {v : Byte} {s t : State} (h : storeByte a v s = .next t) :
    s.inFrameBuffer a = true ∧ t = { s with cache := memSet s.cache a v } := by
  simp only [storeByte] at h
  split at h
  · rename_i hin; cases h; exact ⟨hin, rfl⟩
  · cases h

/-- The host reads what it last wrote. -/
theorem hostByte_store (C : Config) (s : State) (a x : Nat) (v : Byte) :
    hostByte C { s with cache := memSet s.cache a v } x = if x = a then v else hostByte C s x := by
  by_cases h : x = a
  · subst h; simp [hostByte, memGet_memSet_same]
  · simp [hostByte, memByte, memGet_memSet_ne _ _ _ _ h, h]

/-! ## Write-back (R83, R84) -/

/-- What a write-back can do: nothing to a clean byte; a dirty one moves to `MEM`. -/
theorem writeBack_cases (a : Nat) (s : State) :
    (memGet s.cache a = none ∧ writeBack a s = s)
    ∨ ∃ v, memGet s.cache a = some v
        ∧ writeBack a s = { s with mem := memSet s.mem a v, cache := memErase s.cache a } := by
  cases h : memGet s.cache a with
  | none => exact .inl ⟨rfl, by simp [writeBack, h]⟩
  | some v => exact .inr ⟨v, rfl, by simp [writeBack, h]⟩

/-- After a write-back `MEM` holds the host's value of that byte, and every other byte as before. -/
theorem memByte_writeBack (C : Config) (a x : Nat) (s : State) :
    memByte C (writeBack a s) x = if x = a then hostByte C s a else memByte C s x := by
  rcases writeBack_cases a s with ⟨h, e⟩ | ⟨v, h, e⟩
  · rw [e]
    by_cases hx : x = a
    · subst hx; simp [hostByte, h]
    · simp [hx]
  · rw [e]
    by_cases hx : x = a
    · subst hx; simp [memByte, hostByte, h, memGet_memSet_same]
    · simp [memByte, memGet_memSet_ne _ _ _ _ hx, hx]

/-- A write-back does not change what the host sees. -/
theorem hostByte_writeBack (C : Config) (a x : Nat) (s : State) :
    hostByte C (writeBack a s) x = hostByte C s x := by
  rcases writeBack_cases a s with ⟨-, e⟩ | ⟨v, h, e⟩
  · rw [e]
  · rw [e]
    by_cases hx : x = a
    · subst hx; simp [hostByte, memByte, h, memGet_memSet_same, memGet_memErase_same]
    · simp [hostByte, memByte, memGet_memSet_ne _ _ _ _ hx, memGet_memErase_ne _ _ _ hx]

/-- A write-back changes nothing but the two maps. -/
theorem writeBack_eq (a : Nat) (s : State) :
    writeBack a s = { s with mem := (writeBack a s).mem, cache := (writeBack a s).cache } := by
  rcases writeBack_cases a s with ⟨-, e⟩ | ⟨v, -, e⟩ <;> rw [e]

theorem writeBack_canonical {s : State} (h : memoryCanonical s) (a : Nat) : memoryCanonical (writeBack a s) := by
  rcases writeBack_cases a s with ⟨-, e⟩ | ⟨v, hv, e⟩
  · rw [e]; exact h
  · rw [e]; exact ⟨memSet_wf h.1 v (memGet_lt h.2 hv), memErase_wf h.2 a⟩

theorem storeByte_canonical {s t : State} (h : memoryCanonical s) {a : Nat} {v : Byte}
    (ht : storeByte a v s = .next t) : memoryCanonical t := by
  obtain ⟨hin, rfl⟩ := storeByte_cases ht
  have ha : a < 2 ^ 32 := by
    simp only [State.inFrameBuffer, Bool.and_eq_true, decide_eq_true_eq] at hin
    exact hin.2.2.2
  exact ⟨h.1, memSet_wf h.2 v ha⟩

/-- A DMA read changes at most the number of the next draw. -/
theorem dmaReadByte_state (C : Config) (a : Nat) (s : State) :
    (dmaReadByte C a s).2 = { s with draws := (dmaReadByte C a s).2.draws } := by
  simp only [dmaReadByte]; split <;> rfl

end Sys2Proof.Machine
end

