-- ==== Sys2Proof/Laws/Agents.lean ====
section
/-! SUPPORT. What the steps of the autonomous agents, the gaps, and the sequences of sub-steps can do, said once: the
frame of every gap (`AgentFrame`), the canonical form of memory through it, induction principles over the sequences
(`Keeps`, `AgentRel`), and that without a RESET event in the gaps nothing is abandoned (`Orderly`). -/

namespace Sys2Proof.Machine

/-! ## The frame of an agent's step -/

theorem AgentFrame.refl (s : State) : AgentFrame s s :=
  ⟨rfl, rfl, rfl, rfl, rfl, rfl, rfl, rfl, rfl, rfl, rfl, rfl, rfl, rfl, rfl, rfl, rfl, rfl, rfl⟩

theorem AgentFrame.trans {s t u : State} (h : AgentFrame s t) (k : AgentFrame t u) : AgentFrame s u :=
  ⟨k.1.trans h.1, k.2.trans h.2, k.3.trans h.3, k.4.trans h.4, k.5.trans h.5, k.6.trans h.6, k.7.trans h.7,
    k.8.trans h.8, k.9.trans h.9, k.10.trans h.10, k.11.trans h.11, k.12.trans h.12, k.13.trans h.13, k.14.trans h.14,
    k.15.trans h.15, k.16.trans h.16, k.17.trans h.17, k.18.trans h.18, k.19.trans h.19⟩

/-- What an agent's step keeps: the registers of `AgentFrame`, and the canonical form of memory. -/
structure AgentStep (s t : State) : Prop where
  frame : AgentFrame s t
  canonical : memoryCanonical s → memoryCanonical t

theorem AgentStep.refl (s : State) : AgentStep s s := ⟨.refl s, id⟩

theorem AgentStep.trans {s t u : State} (h : AgentStep s t) (k : AgentStep t u) : AgentStep s u :=
  ⟨h.frame.trans k.frame, fun c => k.canonical (h.canonical c)⟩

/-- A clock leaves the compare registers alone. -/
@[simp] theorem LineTimer.clocked_cmp1 (t : LineTimer) : t.clocked.cmp1 = t.cmp1 := by
  simp only [LineTimer.clocked]; split
  · rfl
  · split <;> rfl

@[simp] theorem LineTimer.clocked_cmp2 (t : LineTimer) : t.clocked.cmp2 = t.cmp2 := by
  simp only [LineTimer.clocked]; split
  · rfl
  · split <;> rfl

/-- What a clock of the line timer can do. -/
theorem timerClock_cases (s : State) :
    (s.tmrRun = false ∧ timerClock s = s)
    ∨ (s.tmrRun = true ∧ timerClock s = ({ s with tmr := s.tmr.clocked }).record) := by
  simp only [timerClock]
  cases h : s.tmrRun
  · exact .inl ⟨rfl, by simp⟩
  · exact .inr ⟨rfl, by simp⟩

theorem timerClock_step (s : State) : AgentStep s (timerClock s) := by
  rcases timerClock_cases s with ⟨-, h⟩ | ⟨-, h⟩ <;> rw [h]
  · exact .refl s
  · exact ⟨⟨rfl, rfl, rfl, rfl, rfl, rfl, rfl, rfl, rfl, rfl, rfl, LineTimer.clocked_cmp1 _, LineTimer.clocked_cmp2 _,
      rfl, rfl, rfl, rfl, rfl, rfl⟩, id⟩

theorem lockPll_step (s : State) : AgentStep s (lockPll s) := by
  simp only [lockPll]
  split
  · exact ⟨⟨rfl, rfl, rfl, rfl, rfl, rfl, rfl, rfl, rfl, rfl, setPllLock_pllEnabled s true, rfl, rfl, rfl, rfl, rfl, rfl,
      rfl, rfl⟩, id⟩
  · exact .refl s

theorem pixelClock_step (C : Config) (s : State) : AgentStep s (pixelClock C s) := by
  simp only [pixelClock]
  split
  · split
    · exact ⟨⟨rfl, rfl, rfl, rfl, rfl, rfl, rfl, rfl, rfl, rfl, rfl, rfl, rfl, rfl, rfl, rfl, rfl, rfl, rfl⟩, id⟩
    · split
      · exact ⟨⟨rfl, rfl, rfl, rfl, rfl, rfl, rfl, rfl, rfl, rfl, rfl, rfl, rfl, rfl, rfl, rfl, rfl, rfl, rfl⟩, id⟩
      · split
        · exact ⟨⟨rfl, rfl, rfl, rfl, rfl, rfl, rfl, rfl, rfl, rfl, rfl, rfl, rfl, rfl, rfl, rfl, rfl, rfl, rfl⟩, id⟩
        · exact .refl s
  · exact .refl s

theorem writeBack_step (a : Nat) (s : State) : AgentStep s (writeBack a s) := by
  refine ⟨?_, fun h => writeBack_canonical h a⟩
  rw [writeBack_eq]
  exact ⟨rfl, rfl, rfl, rfl, rfl, rfl, rfl, rfl, rfl, rfl, rfl, rfl, rfl, rfl, rfl, rfl, rfl, rfl, rfl⟩

theorem evictByte_step (a : Word) (s : State) : AgentStep s (evictByte a s) := writeBack_step a.toNat s

theorem draws_step (s : State) (n : Nat) : AgentStep s { s with draws := n } :=
  ⟨⟨rfl, rfl, rfl, rfl, rfl, rfl, rfl, rfl, rfl, rfl, rfl, rfl, rfl, rfl, rfl, rfl, rfl, rfl, rfl⟩, id⟩

theorem gaps_step (s : State) (gs : List (List Turn)) : AgentStep s { s with gaps := gs } :=
  ⟨⟨rfl, rfl, rfl, rfl, rfl, rfl, rfl, rfl, rfl, rfl, rfl, rfl, rfl, rfl, rfl, rfl, rfl, rfl, rfl⟩, id⟩

theorem setChan_step (s : State) (c : Channel) (d : Descriptor) : AgentStep s (s.setChan c d) := by
  cases c <;>
    exact ⟨⟨rfl, rfl, rfl, rfl, rfl, rfl, rfl, rfl, rfl, rfl, rfl, rfl, rfl, rfl, rfl, rfl, rfl, rfl, rfl⟩, id⟩

theorem setStream_step (s : State) (c : Channel) (bs : List Byte) : AgentStep s (s.setStream c bs) := by
  cases c <;>
    exact ⟨⟨rfl, rfl, rfl, rfl, rfl, rfl, rfl, rfl, rfl, rfl, rfl, rfl, rfl, rfl, rfl, rfl, rfl, rfl, rfl⟩, id⟩

theorem finishBeat_step (c : Channel) (bytes : List Byte) (s : State) : AgentStep s (finishBeat c bytes s) :=
  (setStream_step s c _).trans (setChan_step _ c _)

/-- What one step of a beat can do. -/
theorem beatTurn_cases {C : Config} {c : Channel} {b b' : OpenBeats} {s t : State}
    (h : beatTurn C c b s = .next (b', t)) :
    t = s ∨ (∃ a, t = (dmaReadByte C a s).2) ∨ ∃ bytes, t = finishBeat c bytes s := by
  simp only [beatTurn] at h
  split at h
  · split at h
    · split at h
      · cases h
      · cases h; exact .inl rfl
    · cases h; exact .inl rfl
  · cases h; exact .inr (.inr ⟨_, rfl⟩)
  · cases h; exact .inr (.inl ⟨_, rfl⟩)

theorem dmaReadByte_step (C : Config) (a : Nat) (s : State) : AgentStep s (dmaReadByte C a s).2 := by
  rw [dmaReadByte_state]; exact draws_step s _

/-- A step of a beat is never abandoned. -/
theorem beatTurn_ne_abandoned {C : Config} {c : Channel} {b : OpenBeats} {s t : State} :
    beatTurn C c b s ≠ .abandoned t := by
  intro h
  simp only [beatTurn] at h
  split at h
  · split at h
    · split at h <;> cases h
    · cases h
  · cases h
  · cases h

/-- Only a RESET event abandons the operation a turn interposes in (R280). -/
theorem takeTurn_eq_abandoned {C : Config} {own : Option Channel} {u : Turn} {b : OpenBeats} {s t : State}
    (h : takeTurn C own u b s = .abandoned t) : u = .reset ∧ t = resetEvent s := by
  cases u with
  | tmrStep => cases h
  | pllLock => cases h
  | shiftOut => cases h
  | cacheEvict a => cases h
  | dmaBeat c =>
    simp only [takeTurn] at h
    split at h
    · cases h
    · exact absurd h beatTurn_ne_abandoned
  | reset => cases h; exact ⟨rfl, rfl⟩

/-- What one turn of an agent can do. -/
theorem takeTurn_cases {C : Config} {own : Option Channel} {u : Turn} {b b' : OpenBeats} {s t : State}
    (h : takeTurn C own u b s = .next (b', t)) :
    t = s ∨ t = timerClock s ∨ t = lockPll s ∨ t = pixelClock C s ∨ (∃ a, t = evictByte a s)
      ∨ (∃ a, t = (dmaReadByte C a s).2) ∨ ∃ c bytes, t = finishBeat c bytes s := by
  cases u with
  | tmrStep => cases h; exact .inr (.inl rfl)
  | pllLock => cases h; exact .inr (.inr (.inl rfl))
  | shiftOut => cases h; exact .inr (.inr (.inr (.inl rfl)))
  | cacheEvict a => cases h; exact .inr (.inr (.inr (.inr (.inl ⟨a, rfl⟩))))
  | dmaBeat c =>
    simp only [takeTurn] at h
    split at h
    · cases h; exact .inl rfl
    · rcases beatTurn_cases h with h | h | ⟨bytes, h⟩
      · exact .inl h
      · exact .inr (.inr (.inr (.inr (.inr (.inl h)))))
      · exact .inr (.inr (.inr (.inr (.inr (.inr ⟨c, bytes, h⟩)))))
  | reset => cases h

/-! ## Relations that every agent's step keeps -/

/-- `r`, begun in `s`, keeps to `R`: the state it goes on with is related to `s`, and so is the state in which a RESET
event found it. -/
def Keeps {α : Type} (R : State → State → Prop) (state : α → State) (s : State) (r : Flow α) : Prop :=
  match r with
  | .next a => R s (state a)
  | .abandoned t => ∃ u, R s u ∧ t = resetEvent u
  | .refused _ => True

/-- What a whole operation answers, if its parts keep to `R`. -/
theorem Keeps.settle {R : State → State → Prop} {s t : State} {r : Flow State} (h : Keeps R id s r)
    (e : settle r = .next t) : R s t ∨ ∃ u, R s u ∧ t = resetEvent u := by
  rcases settle_eq_next e with rfl | rfl
  · exact .inl h
  · exact .inr h

theorem Keeps.andThen {α β : Type} {R : State → State → Prop} (htrans : ∀ s t u, R s t → R t u → R s u)
    {p : α → State} {q : β → State} {s : State} {r : Flow α} {f : α → Flow β} (h : Keeps R p s r)
    (k : ∀ a, r = .next a → Keeps R q (p a) (f a)) : Keeps R q s (andThen r f) := by
  cases r with
  | next a =>
    have k := k a rfl
    simp only [andThen_next]
    cases e : f a with
    | next b => rw [e] at k; exact htrans _ _ _ h k
    | abandoned t => rw [e] at k; obtain ⟨u, hu, rfl⟩ := k; exact ⟨u, htrans _ _ _ h hu, rfl⟩
    | refused e => trivial
  | abandoned t => exact h
  | refused e => trivial

/-- A relation that every indivisible step of an agent keeps, and the taking of a gap from the schedule. -/
structure AgentRel (C : Config) (R : State → State → Prop) : Prop where
  refl : ∀ s, R s s
  trans : ∀ s t u, R s t → R t u → R s u
  timer : ∀ s, R s (timerClock s)
  lock : ∀ s, R s (lockPll s)
  pixel : ∀ s, R s (pixelClock C s)
  write : ∀ a s, R s (writeBack a s)
  draw : ∀ s n, R s { s with draws := n }
  finish : ∀ c bytes s, R s (finishBeat c bytes s)
  schedule : ∀ s ts rest, s.gaps = ts :: rest → R s { s with gaps := rest }

theorem AgentRel.read {C : Config} {R : State → State → Prop} (h : AgentRel C R) (a : Nat) (s : State) :
    R s (dmaReadByte C a s).2 := by
  rw [dmaReadByte_state]; exact h.draw s _

theorem AgentRel.turn {C : Config} {R : State → State → Prop} (h : AgentRel C R) (own : Option Channel) (u : Turn)
    (b : OpenBeats) (s : State) : Keeps R Prod.snd s (takeTurn C own u b s) := by
  cases e : takeTurn C own u b s with
  | next r =>
    obtain ⟨b', t⟩ := r
    show R s t
    rcases takeTurn_cases e with rfl | rfl | rfl | rfl | ⟨a, rfl⟩ | ⟨a, rfl⟩ | ⟨c, bytes, rfl⟩
    · exact h.refl _
    · exact h.timer _
    · exact h.lock _
    · exact h.pixel _
    · exact h.write _ _
    · exact h.read _ _
    · exact h.finish _ _ _
  | abandoned t => exact ⟨s, h.refl s, (takeTurn_eq_abandoned e).2⟩
  | refused e => trivial

theorem AgentRel.turns {C : Config} {R : State → State → Prop} (h : AgentRel C R) (own : Option Channel)
    (ts : List Turn) : ∀ b s, Keeps R Prod.snd s (takeTurns C own ts b s) := by
  induction ts with
  | nil => intro b s; exact h.refl s
  | cons u ts ih => intro b s; exact (h.turn own u b s).andThen h.trans fun r _ => ih r.1 r.2

theorem AgentRel.gapTurns {C : Config} {R : State → State → Prop} (h : AgentRel C R) (own : Option Channel)
    (b : OpenBeats) (s : State) : Keeps R Prod.snd s (gapTurns C own b s) := by
  simp only [Machine.gapTurns]
  split
  · exact h.refl s
  · rename_i ts rest e
    exact Keeps.andThen (r := .next ()) (p := fun _ => { s with gaps := rest }) h.trans (h.schedule s ts rest e)
      fun _ _ => h.turns own ts b _

theorem AgentRel.closeBeat {C : Config} {R : State → State → Prop} (h : AgentRel C R) (c : Channel) (n : Nat) :
    ∀ a bytes s, R s (closeBeat C c n a bytes s) := by
  induction n with
  | zero => intro a bytes s; exact h.finish _ _ _
  | succ n ih => intro a bytes s; exact h.trans _ _ _ (h.read a s) (ih _ _ _)

theorem AgentRel.closeBeats {C : Config} {R : State → State → Prop} (h : AgentRel C R) (b : OpenBeats) (s : State) :
    R s (closeBeats C b s) := by
  have hopen : ∀ c o s, R s (closeOpen C c o s) := fun c o s => by
    cases o with
    | none => exact h.refl s
    | some f => exact h.closeBeat c _ _ _ _
  exact h.trans _ _ _ (hopen _ _ _) (hopen _ _ _)

/-- Whatever the schedule does in a gap, the relation is kept. -/
theorem AgentRel.gapWithout {C : Config} {R : State → State → Prop} (h : AgentRel C R) (held : Option Channel)
    (s : State) : Keeps R id s (gapWithout C held s) :=
  (h.gapTurns held .empty s).andThen h.trans fun r _ => h.closeBeats r.1 r.2

theorem AgentRel.gap {C : Config} {R : State → State → Prop} (h : AgentRel C R) (s : State) :
    Keeps R id s (gap C s) := h.gapWithout none s

theorem AgentRel.beatBytes {C : Config} {R : State → State → Prop} (h : AgentRel C R) (c : Channel) (n : Nat) :
    ∀ a bytes b s, Keeps R (fun r => r.2.2) s (beatBytes C c n a bytes b s) := by
  induction n with
  | zero => intro a bytes b s; exact h.refl s
  | succ n ih =>
    intro a bytes b s
    exact Keeps.andThen (r := .next ()) (p := fun _ => (dmaReadByte C a s).2) h.trans (h.read a s) fun _ _ =>
      (h.gapTurns (some c) b _).andThen h.trans fun r _ => ih _ _ r.1 r.2

/-- Whatever the schedule does between the bytes of a beat, the relation is kept. -/
theorem AgentRel.beat {C : Config} {R : State → State → Prop} (h : AgentRel C R) (c : Channel) (s : State) :
    Keeps R id s (beat C c s) := by
  simp only [Machine.beat]
  split
  · trivial
  · exact (h.beatBytes c _ _ _ _ s).andThen h.trans fun r _ =>
      h.trans _ _ _ (h.finish _ _ _) (h.closeBeats _ _)

/-- A flush is write-backs and gaps. -/
theorem AgentRel.flushRange {C : Config} {R : State → State → Prop} (h : AgentRel C R) (n : Nat) :
    ∀ (a : Nat) (s : State), Keeps R id s (flushRange C n a s) := by
  induction n with
  | zero => intro a s; exact h.refl s
  | succ n ih =>
    intro a s
    exact Keeps.andThen (r := .next ()) (p := fun _ => writeBack a s) h.trans (h.write a s) fun _ _ =>
      (h.gap _).andThen h.trans fun s' _ => ih _ s'

/-- The lock polls are gaps. -/
theorem AgentRel.pollLock {C : Config} {R : State → State → Prop} (h : AgentRel C R) (n : Nat) :
    ∀ s, Keeps R Prod.snd s (pollLock C n s) := by
  induction n with
  | zero => intro s; exact h.refl s
  | succ n ih =>
    intro s
    simp only [Machine.pollLock]
    split
    · exact h.refl s
    · exact (h.gap s).andThen h.trans fun s' _ => ih s'

/-- `AgentStep` is such a relation. -/
theorem agentStep_rel (C : Config) : AgentRel C AgentStep where
  refl := AgentStep.refl
  trans := fun _ _ _ => AgentStep.trans
  timer := timerClock_step
  lock := lockPll_step
  pixel := pixelClock_step C
  write := writeBack_step
  draw := draws_step
  finish := finishBeat_step
  schedule := fun s _ rest _ => gaps_step s rest

/-- Whatever the schedule does in a gap is agent steps. -/
theorem gap_step {C : Config} {s t : State} (h : gap C s = .next t) : AgentStep s t := by
  have k := (agentStep_rel C).gap s
  rw [h] at k
  exact k

/-- A beat, with whatever the schedule does between its bytes, is agent steps. -/
theorem beat_step {C : Config} {c : Channel} {s t : State} (h : beat C c s = .next t) : AgentStep s t := by
  have k := (agentStep_rel C).beat c s
  rw [h] at k
  exact k

/-! ## No RESET event in the gaps -/

/-- Without a RESET event in the gaps, `f` is not abandoned, and leaves none in the gaps that follow. -/
def Orderly {α : Type} (state : α → State) (f : State → Flow α) : Prop :=
  ∀ s, s.noReset → (∀ t, f s ≠ .abandoned t) ∧ ∀ a, f s = .next a → (state a).noReset

theorem Orderly.andThen {α β : Type} {p : α → State} {q : β → State} {f : State → Flow α} {g : α → Flow β}
    (hf : Orderly p f) (hg : ∀ a, (p a).noReset → (∀ t, g a ≠ .abandoned t) ∧ ∀ b, g a = .next b → (q b).noReset) :
    Orderly q (fun s => andThen (f s) g) := by
  intro s hs
  obtain ⟨h1, h2⟩ := hf s hs
  refine ⟨fun t e => ?_, fun b e => ?_⟩
  · rcases andThen_eq_abandoned e with e | ⟨a, ea, e⟩
    · exact h1 t e
    · exact (hg a (h2 a ea)).1 t e
  · obtain ⟨a, ea, e⟩ := andThen_eq_next e
    exact (hg a (h2 a ea)).2 b e

/-- The gaps that an agent's step leaves are among those it found. -/
theorem gaps_rel (C : Config) : AgentRel C (fun s t => t.gaps <:+ s.gaps) where
  refl := fun s => List.suffix_refl _
  trans := fun _ _ _ h k => k.trans h
  timer := fun s => by
    rcases timerClock_cases s with ⟨-, h⟩ | ⟨-, h⟩ <;> rw [h]
    · exact List.suffix_refl _
  lock := fun s => by simp only [lockPll]; split <;> exact List.suffix_refl _
  pixel := fun s => by
    simp only [pixelClock]
    split
    · split
      · exact List.suffix_refl _
      · split
        · exact List.suffix_refl _
        · split <;> exact List.suffix_refl _
    · exact List.suffix_refl _
  write := fun a s => by rw [writeBack_eq]
  draw := fun _ _ => List.suffix_refl _
  finish := fun c bytes s => by simp [finishBeat, writePort]
  schedule := fun s ts rest e => by rw [e]; exact List.suffix_cons _ _

theorem State.noReset_of_suffix {s t : State} (h : t.gaps <:+ s.gaps) (hs : s.noReset) : t.noReset :=
  fun ts hts => hs ts (h.subset hts)

/-- Turns among which there is no RESET event do not abandon the operation. -/
theorem takeTurns_ne_abandoned {C : Config} {own : Option Channel} (ts : List Turn) (h : Turn.reset ∉ ts) :
    ∀ b s t, takeTurns C own ts b s ≠ .abandoned t := by
  induction ts with
  | nil => intro b s t e; cases e
  | cons u ts ih =>
    intro b s t e
    rcases andThen_eq_abandoned e with e | ⟨r, -, e⟩
    · exact h (by rw [(takeTurn_eq_abandoned e).1]; exact List.mem_cons_self)
    · exact ih (fun m => h (List.mem_cons_of_mem _ m)) _ _ _ e

theorem gapTurns_orderly (C : Config) (own : Option Channel) (b : OpenBeats) : Orderly Prod.snd (gapTurns C own b) := by
  intro s hs
  refine ⟨fun t e => ?_, fun r e => ?_⟩
  · simp only [gapTurns] at e
    split at e
    · cases e
    · rename_i ts rest eg
      exact takeTurns_ne_abandoned ts (hs ts (by simp [eg])) _ _ _ e
  · have k := (gaps_rel C).gapTurns own b s
    rw [e] at k
    exact State.noReset_of_suffix k hs

theorem gapWithout_orderly (C : Config) (held : Option Channel) : Orderly id (gapWithout C held) := by
  intro s hs
  refine ⟨fun t e => ?_, fun r e => ?_⟩
  · rcases andThen_eq_abandoned e with e | ⟨r, -, e⟩
    · exact (gapTurns_orderly C held .empty s hs).1 t e
    · cases e
  · have k := (gaps_rel C).gapWithout held s
    rw [e] at k
    exact State.noReset_of_suffix k hs

theorem gap_orderly (C : Config) : Orderly id (gap C) := gapWithout_orderly C none

theorem beatBytes_orderly (C : Config) (c : Channel) (n : Nat) :
    ∀ a bytes b, Orderly (fun r => r.2.2) (beatBytes C c n a bytes b) := by
  induction n with
  | zero => exact fun a bytes b s hs => ⟨fun t e => (nomatch e), fun r e => by cases e; exact hs⟩
  | succ n ih =>
    intro a bytes b s hs
    have hr : (dmaReadByte C a s).2.noReset :=
      State.noReset_of_suffix ((gaps_rel C).read a s) hs
    exact (gapTurns_orderly C (some c) b).andThen (fun r hr => ih _ _ r.1 r.2 hr) _ hr

theorem beat_orderly (C : Config) (c : Channel) : Orderly id (beat C c) := by
  intro s hs
  refine ⟨fun t e => ?_, fun r e => ?_⟩
  · simp only [beat] at e
    split at e
    · cases e
    · rcases andThen_eq_abandoned e with e | ⟨r, -, e⟩
      · exact (beatBytes_orderly C c _ _ _ _ s hs).1 t e
      · cases e
  · have k := (gaps_rel C).beat c s
    rw [e] at k
    exact State.noReset_of_suffix k hs

/-- A sequence of orderly sub-steps is orderly. -/
theorem inOrder_orderly (C : Config) (fs : List (State → Flow State)) (h : ∀ f ∈ fs, Orderly id f) :
    Orderly id (inOrder C fs) := by
  induction fs with
  | nil => exact fun s hs => ⟨fun t e => (nomatch e), fun r e => by cases e; exact hs⟩
  | cons f fs ih =>
    exact (h f (by simp)).andThen fun s' hs' =>
      ((gap_orderly C).andThen fun s'' hs'' => ih (fun g hg => h g (by simp [hg])) s'' hs'') s' hs'

/-- A register write is orderly if it leaves the schedule alone. -/
theorem assign_orderly {f : State → State} (h : ∀ s, (f s).gaps = s.gaps) : Orderly id (assign f) :=
  fun s hs => ⟨fun t e => (nomatch e), fun r e => by
    cases e
    intro ts hts
    exact hs ts (by rw [← h s]; exact hts)⟩

theorem flushRange_orderly (C : Config) (n : Nat) : ∀ a, Orderly id (flushRange C n a) := by
  induction n with
  | zero => exact fun a s hs => ⟨fun t e => (nomatch e), fun r e => by cases e; exact hs⟩
  | succ n ih =>
    intro a s hs
    exact (gap_orderly C).andThen (fun s' hs' => ih _ s' hs') _
      (State.noReset_of_suffix ((gaps_rel C).write a s) hs)

theorem storeRun_orderly (C : Config) (value : Nat → Byte) (base n : Nat) :
    ∀ i, Orderly id (storeRun C value base n i) := by
  induction n with
  | zero => exact fun i s hs => ⟨fun t e => (nomatch e), fun r e => by cases e; exact hs⟩
  | succ n ih =>
    intro i
    refine Orderly.andThen (p := id) (fun s hs => ⟨fun t e => asPart_ne_abandoned e, fun r e => ?_⟩)
      fun s' hs' => (gap_orderly C).andThen (fun s'' hs'' => ih _ s'' hs'') s' hs'
    obtain ⟨-, rfl⟩ := storeByte_cases (asPart_eq_next e)
    exact hs

theorem pollLock_orderly (C : Config) (n : Nat) : Orderly Prod.snd (pollLock C n) := by
  induction n with
  | zero => exact fun s hs => ⟨fun t e => (nomatch e), fun r e => by cases e; exact hs⟩
  | succ n ih =>
    intro s hs
    simp only [pollLock]
    split
    · exact ⟨fun t e => (nomatch e), fun r e => by cases e; exact hs⟩
    · exact (gap_orderly C).andThen (fun s' hs' => ih s' hs') s hs

/-! ## Quiet gaps and sequences -/

/-- With nothing scheduled, no turn is taken. -/
theorem gapTurns_of_quiet {C : Config} {own : Option Channel} {b : OpenBeats} {s : State} (h : s.gaps = []) :
    gapTurns C own b s = .next (b, s) := by
  simp [gapTurns, h]

/-- With nothing scheduled in it, a gap changes nothing. -/
theorem gapWithout_of_quiet {C : Config} {held : Option Channel} {s : State} (h : s.gaps = []) :
    gapWithout C held s = .next s := by
  simp [gapWithout, gapTurns, closeBeats, closeOpen, OpenBeats.empty, h]

theorem gap_of_quiet {C : Config} {s : State} (h : s.gaps = []) : gap C s = .next s := gapWithout_of_quiet h

@[simp] theorem inOrder_nil (C : Config) (s : State) : inOrder C [] s = .next s := rfl

theorem inOrder_cons (C : Config) (f : State → Flow State) (fs : List (State → Flow State)) (s : State) :
    inOrder C (f :: fs) s = andThen (f s) fun s' => andThen (gap C s') (inOrder C fs) := rfl

/-- A quiet register write goes straight on to the next sub-step. -/
theorem inOrder_assign_of_quiet {C : Config} {f : State → State} {fs : List (State → Flow State)} {s : State}
    (h : (f s).gaps = []) : inOrder C (assign f :: fs) s = inOrder C fs (f s) := by
  simp [inOrder_cons, gap_of_quiet h]

/-- Quiet register writes in a row are the composition of their updates. -/
theorem inOrder_assigns_of_quiet {C : Config} (us : List (State → State)) :
    ∀ (rest : List (State → Flow State)) (s : State), (∀ u ∈ us, ∀ x, (u x).gaps = x.gaps) → s.gaps = [] →
      inOrder C (us.map assign ++ rest) s = inOrder C rest (us.foldl (fun x u => u x) s) := by
  induction us with
  | nil => intro rest s _ _; rfl
  | cons u us ih =>
    intro rest s hu hq
    have h1 : (u s).gaps = [] := by rw [hu u (by simp)]; exact hq
    rw [List.map_cons, List.cons_append, inOrder_assign_of_quiet h1]
    exact ih rest (u s) (fun v hv => hu v (by simp [hv])) h1

/-- A relation that every gap and every sub-step keeps, the sequence keeps. -/
theorem inOrder_keeps {C : Config} {R : State → State → Prop} (hrefl : ∀ s, R s s)
    (htrans : ∀ s t u, R s t → R t u → R s u) (hgap : ∀ s, Keeps R id s (gap C s)) (fs : List (State → Flow State)) :
    (∀ f ∈ fs, ∀ s, Keeps R id s (f s)) → ∀ s, Keeps R id s (inOrder C fs s) := by
  induction fs with
  | nil => intro _ s; exact hrefl s
  | cons f fs ih =>
    intro hfs s
    exact (hfs f (by simp) s).andThen htrans fun s1 _ =>
      (hgap s1).andThen htrans fun s2 _ => ih (fun g hg => hfs g (by simp [hg])) s2

/-- A flush is agent steps: its own byte steps are write-backs, and so are the frame and the canonical form. -/
theorem flushRange_step {C : Config} (n a : Nat) (s t : State) (h : flushRange C n a s = .next t) : AgentStep s t := by
  have k := (agentStep_rel C).flushRange n a s
  rw [h] at k
  exact k

/-- A host store keeps every register, `MEM` and the ports. -/
theorem storeByte_frame {a : Nat} {v : Byte} {s t : State} (h : storeByte a v s = .next t) : AgentFrame s t := by
  obtain ⟨-, rfl⟩ := storeByte_cases h
  exact ⟨rfl, rfl, rfl, rfl, rfl, rfl, rfl, rfl, rfl, rfl, rfl, rfl, rfl, rfl, rfl, rfl, rfl, rfl, rfl⟩

/-- A run of host stores keeps the registers an agent's step keeps, and the canonical form. -/
theorem storeRun_step {C : Config} {value : Nat → Byte} {base : Nat} (n : Nat) :
    ∀ (i : Nat) (s : State), Keeps AgentStep id s (storeRun C value base n i s) := by
  induction n with
  | zero => intro i s; exact AgentStep.refl s
  | succ n ih =>
    intro i s
    refine Keeps.andThen (p := id) (agentStep_rel C).trans ?_ fun s1 _ =>
      ((agentStep_rel C).gap s1).andThen (agentStep_rel C).trans fun s2 _ => ih _ s2
    cases e : asPart (storeByte (base + i) (value i) s) with
    | next t => exact ⟨storeByte_frame (asPart_eq_next e), fun c => storeByte_canonical c (asPart_eq_next e)⟩
    | abandoned t => exact absurd e asPart_ne_abandoned
    | refused e => trivial

/-- A quiet flush: every byte of the range is in `MEM` as the host sees it, every other byte as before, and the host's
view, the registers and the schedule are unchanged. -/
theorem flushRange_quiet {C : Config} (n : Nat) :
    ∀ (a : Nat) (s : State), s.gaps = [] →
      ∃ t, flushRange C n a s = .next t
        ∧ (∀ x, memByte C t x = if a ≤ x ∧ x < a + n then hostByte C s x else memByte C s x)
        ∧ (∀ x, hostByte C t x = hostByte C s x)
        ∧ t = { s with mem := t.mem, cache := t.cache } := by
  induction n with
  | zero =>
    intro a s _
    refine ⟨s, rfl, fun x => ?_, fun _ => rfl, rfl⟩
    rw [if_neg (by omega)]
  | succ n ih =>
    intro a s hq
    have hq' : (writeBack a s).gaps = [] := by rw [writeBack_eq]; exact hq
    obtain ⟨t, h1, h2, h3, h4⟩ := ih (a + 1) (writeBack a s) hq'
    refine ⟨t, ?_, fun x => ?_, fun x => ?_, ?_⟩
    · simp only [flushRange, gap_of_quiet hq', andThen_next, h1]
    · rw [h2, hostByte_writeBack, memByte_writeBack]
      by_cases hx : x = a
      · subst hx
        rw [if_neg (by omega), if_pos rfl, if_pos (by omega)]
      · by_cases hin : a + 1 ≤ x ∧ x < a + 1 + n
        · have h6 : a ≤ x ∧ x < a + (n + 1) := by omega
          simp [hin, h6]
        · have h6 : ¬ (a ≤ x ∧ x < a + (n + 1)) := by omega
          rw [if_neg hin, if_neg hx, if_neg h6]
    · rw [h3, hostByte_writeBack]
    · rw [h4, writeBack_eq]

end Sys2Proof.Machine
end

