-- ==== Sys2Proof/Laws/Config.lean ====
section
/-! SUPPORT. The chip's configuration is legal, and every legal configuration is one it may have. -/

namespace Sys2Proof

theorem clamp_bounds {lo hi : Nat} (x : Nat) (h : lo ≤ hi) : lo ≤ clamp lo hi x ∧ clamp lo hi x ≤ hi := by
  simp only [clamp]; omega

theorem Config.legalise_legal (C : Config) : C.legalise.Legal := by
  have hmin := clamp_bounds C.divMin (show 1 ≤ 2 ^ 32 - 1 by decide)
  have hmax := clamp_bounds C.divMax hmin.2
  have hden := clamp_bounds C.denom0 (show 1 ≤ 2 ^ 32 - 1 by decide)
  refine
    { fRef_pos := Nat.le_max_left _ _
      divMin_pos := hmin.1
      divMin_le := hmax.1
      divMax_lt := Nat.lt_of_le_of_lt hmax.2 (by decide)
      denom0_pos := hden.1
      denom0_lt := Nat.lt_of_le_of_lt hden.2 (by decide)
      postDiv_pos := Nat.le_max_left _ _
      lockTimeout_pos := Nat.le_max_left _ _
      pixRefFreq_pos := Nat.le_max_left _ _
      mode0 := ⟨_, _, rfl⟩
      skew_le := fun m => Nat.min_le_left _ _
      fbPad_ge := Nat.le_max_left _ _
      fbAlign_pos := ?_
      fbAlign_dvd := ?_
      hsLow_pos := Nat.le_max_left _ _
      hsRest_pos := Nat.le_max_left _ _ }
  · show 0 < if 0 < C.fbAlign ∧ C.fbAlign % 8 = 0 then C.fbAlign else 8
    split <;> omega
  · show (if 0 < C.fbAlign ∧ C.fbAlign % 8 = 0 then C.fbAlign else 8) % 8 = 0
    split <;> omega

theorem Config.chip_legal : Config.chip.Legal := Config.raw.legalise_legal

theorem clamp_of_mem {lo hi x : Nat} (h1 : lo ≤ x) (h2 : x ≤ hi) : clamp lo hi x = x := by
  simp [clamp]; omega

theorem Config.legalise_of_legal (C : Config) (h : C.Legal) : C.legalise = C := by
  obtain ⟨s0, tb, h0⟩ := h.mode0
  have e1 : clamp 1 (2 ^ 32 - 1) C.divMin = C.divMin :=
    clamp_of_mem h.divMin_pos (by have := h.divMin_le; have := h.divMax_lt; omega)
  have e2 : clamp C.divMin (2 ^ 32 - 1) C.divMax = C.divMax :=
    clamp_of_mem h.divMin_le (by have := h.divMax_lt; omega)
  have e3 : clamp 1 (2 ^ 32 - 1) C.denom0 = C.denom0 :=
    clamp_of_mem h.denom0_pos (by have := h.denom0_lt; omega)
  have e5 : max C.shiftMax C.fbPad = C.fbPad := by have := h.fbPad_ge; omega
  have e6 : max 1 C.hsLow = C.hsLow := by have := h.hsLow_pos; omega
  have e7 : max 1 C.hsRest = C.hsRest := by have := h.hsRest_pos; omega
  have e8 : (fun m => min C.shiftMax (C.skew m)) = C.skew := by
    funext m; have := h.skew_le m; omega
  have e9 : (fun m => if m = 0 then some (ModeEntry.reference s0 tb) else C.modeTable m) = C.modeTable := by
    funext m
    by_cases hm : m = 0
    · subst hm; rw [if_pos rfl, h0]
    · rw [if_neg hm]
  have e10 : max 1 C.fRef = C.fRef := by have := h.fRef_pos; omega
  have e11 : max 1 C.postDiv = C.postDiv := by have := h.postDiv_pos; omega
  have e12 : max 1 C.lockTimeout = C.lockTimeout := by have := h.lockTimeout_pos; omega
  have e13 : max 1 C.pixRefFreq = C.pixRefFreq := by have := h.pixRefFreq_pos; omega
  have e14 : (ModeEntry.reference s0 tb).shift0 = s0 := rfl
  have e15 : (ModeEntry.reference s0 tb).topBlank = tb := rfl
  simp only [legalise, h0, Option.getD_some, e14, e15, e1, e2, e3, e5, e6, e7, e8, e9, e10, e11, e12, e13,
    h.fbAlign_pos, h.fbAlign_dvd, and_self, if_true]

end Sys2Proof
end

