-- ==== Sys2Proof/Laws/Decode.lean ====
section
/-! SUPPORT. The fields of a laid-out command word (spec/30_encoding.md R100) are the fields it was laid out from. -/

namespace Sys2Proof

theorem fieldOp_layoutAW (op : Byte) (a : Half) (w : Word) : fieldOp (layoutAW op a w) = op := by
  apply BitVec.eq_of_getLsbD_eq
  intro i hi
  simp only [fieldOp, layoutAW, BitVec.getLsbD_extractLsb', BitVec.getLsbD_append]
  rw [if_neg (by omega), if_neg (by omega), if_neg (by omega)]
  simp only [hi, decide_true, Bool.true_and]
  congr 1
  omega

theorem fieldZ_layoutAW (op : Byte) (a : Half) (w : Word) : fieldZ (layoutAW op a w) = 0 := by
  apply BitVec.eq_of_getLsbD_eq
  intro i hi
  simp only [fieldZ, layoutAW, BitVec.getLsbD_extractLsb', BitVec.getLsbD_append]
  rw [if_neg (by omega), if_neg (by omega), if_pos (by omega)]
  simp

theorem fieldA_layoutAW (op : Byte) (a : Half) (w : Word) : fieldA (layoutAW op a w) = a := by
  apply BitVec.eq_of_getLsbD_eq
  intro i hi
  simp only [fieldA, layoutAW, BitVec.getLsbD_extractLsb', BitVec.getLsbD_append]
  rw [if_neg (by omega), if_pos (by omega)]
  simp only [hi, decide_true, Bool.true_and]
  congr 1
  omega

theorem fieldW_layoutAW (op : Byte) (a : Half) (w : Word) : fieldW (layoutAW op a w) = w := by
  apply BitVec.eq_of_getLsbD_eq
  intro i hi
  simp only [fieldW, layoutAW, BitVec.getLsbD_extractLsb', BitVec.getLsbD_append]
  rw [if_pos (by omega)]
  simp [hi]

theorem fieldB_layoutABC (op : Byte) (a b c : Half) : fieldB (layoutABC op a b c) = b := by
  apply BitVec.eq_of_getLsbD_eq
  intro i hi
  simp only [fieldB, layoutABC, layoutAW, BitVec.getLsbD_extractLsb', BitVec.getLsbD_append]
  rw [if_pos (by omega), if_neg (by omega)]
  simp only [hi, decide_true, Bool.true_and]
  congr 1
  omega

theorem fieldC_layoutABC (op : Byte) (a b c : Half) : fieldC (layoutABC op a b c) = c := by
  apply BitVec.eq_of_getLsbD_eq
  intro i hi
  simp only [fieldC, layoutABC, layoutAW, BitVec.getLsbD_extractLsb', BitVec.getLsbD_append]
  rw [if_pos (by omega), if_pos (by omega)]
  simp [hi]

theorem fieldOp_layoutABC (op : Byte) (a b c : Half) : fieldOp (layoutABC op a b c) = op := fieldOp_layoutAW _ _ _

theorem fieldZ_layoutABC (op : Byte) (a b c : Half) : fieldZ (layoutABC op a b c) = 0 := fieldZ_layoutAW _ _ _

theorem fieldA_layoutABC (op : Byte) (a b c : Half) : fieldA (layoutABC op a b c) = a := fieldA_layoutAW _ _ _

/-- The low byte of a field that holds a byte is that byte. -/
theorem lowByte_byteField (v : Byte) : lowByte (byteField v) = v := by
  apply BitVec.eq_of_getLsbD_eq
  intro i hi
  simp only [lowByte, byteField, BitVec.getLsbD_extractLsb', BitVec.getLsbD_append]
  rw [if_pos (by omega)]
  simp [hi]

theorem channelOf_channelBit (c : Channel) : channelOf (channelBit c) = c := by cases c <;> rfl

end Sys2Proof
end

