-- ==== Sys2Proof/Laws/PerInstr.lean ====
section
/-! SUPPORT. A statement of every operation as syntax: its command word carries its opcode of spec/30_encoding.md R104
in OP and zero in Z. One lemma per constructor. -/

namespace Sys2Proof.Laws

/-- R100, R104: the OP and Z fields of the command word an operation is encoded in. -/
def OpcodeField.Statement (i : Instr) : Prop := fieldOp (encodeWord i) = opcode i ∧ fieldZ (encodeWord i) = 0

theorem OpcodeField.nop : OpcodeField.Statement .nop :=
  ⟨fieldOp_layoutABC _ _ _ _, fieldZ_layoutABC _ _ _ _⟩

theorem OpcodeField.beginMode (m : Byte) : OpcodeField.Statement (.beginMode m) :=
  ⟨fieldOp_layoutABC _ _ _ _, fieldZ_layoutABC _ _ _ _⟩

theorem OpcodeField.endMode : OpcodeField.Statement .endMode :=
  ⟨fieldOp_layoutABC _ _ _ _, fieldZ_layoutABC _ _ _ _⟩

theorem OpcodeField.tweak (a : Half) (b : Half) (c : Half) : OpcodeField.Statement (.tweak a b c) :=
  ⟨fieldOp_layoutABC _ _ _ _, fieldZ_layoutABC _ _ _ _⟩

theorem OpcodeField.waitVsync : OpcodeField.Statement .waitVsync :=
  ⟨fieldOp_layoutABC _ _ _ _, fieldZ_layoutABC _ _ _ _⟩

theorem OpcodeField.waitLine (n : Half) : OpcodeField.Statement (.waitLine n) :=
  ⟨fieldOp_layoutABC _ _ _ _, fieldZ_layoutABC _ _ _ _⟩

theorem OpcodeField.frameSize : OpcodeField.Statement .frameSize :=
  ⟨fieldOp_layoutABC _ _ _ _, fieldZ_layoutABC _ _ _ _⟩

theorem OpcodeField.rowPointer (y : Half) : OpcodeField.Statement (.rowPointer y) :=
  ⟨fieldOp_layoutABC _ _ _ _, fieldZ_layoutABC _ _ _ _⟩

theorem OpcodeField.getPixel (x : Half) (y : Half) : OpcodeField.Statement (.getPixel x y) :=
  ⟨fieldOp_layoutABC _ _ _ _, fieldZ_layoutABC _ _ _ _⟩

theorem OpcodeField.setPixel (x : Half) (y : Half) (v : Byte) : OpcodeField.Statement (.setPixel x y v) :=
  ⟨fieldOp_layoutABC _ _ _ _, fieldZ_layoutABC _ _ _ _⟩

theorem OpcodeField.writeRowNative (y : Half) (n : Half) (p : List Byte) : OpcodeField.Statement (.writeRowNative y n p) :=
  ⟨fieldOp_layoutABC _ _ _ _, fieldZ_layoutABC _ _ _ _⟩

theorem OpcodeField.writeRowPal8 (y : Half) (n : Half) (p : List Byte) : OpcodeField.Statement (.writeRowPal8 y n p) :=
  ⟨fieldOp_layoutABC _ _ _ _, fieldZ_layoutABC _ _ _ _⟩

theorem OpcodeField.writeRowRgb565 (y : Half) (n : Half) (p : List Half) : OpcodeField.Statement (.writeRowRgb565 y n p) :=
  ⟨fieldOp_layoutABC _ _ _ _, fieldZ_layoutABC _ _ _ _⟩

theorem OpcodeField.fbLoad (a : Word) : OpcodeField.Statement (.fbLoad a) :=
  ⟨fieldOp_layoutAW _ _ _, fieldZ_layoutAW _ _ _⟩

theorem OpcodeField.fbStore (v : Byte) (a : Word) : OpcodeField.Statement (.fbStore v a) :=
  ⟨fieldOp_layoutAW _ _ _, fieldZ_layoutAW _ _ _⟩

theorem OpcodeField.rdreg (r : Byte) : OpcodeField.Statement (.rdreg r) :=
  ⟨fieldOp_layoutABC _ _ _ _, fieldZ_layoutABC _ _ _ _⟩

theorem OpcodeField.modeResolve (m : Byte) : OpcodeField.Statement (.modeResolve m) :=
  ⟨fieldOp_layoutABC _ _ _ _, fieldZ_layoutABC _ _ _ _⟩

theorem OpcodeField.clkProgram (t : Word) : OpcodeField.Statement (.clkProgram t) :=
  ⟨fieldOp_layoutAW _ _ _, fieldZ_layoutAW _ _ _⟩

theorem OpcodeField.pllLock : OpcodeField.Statement .pllLock :=
  ⟨fieldOp_layoutABC _ _ _ _, fieldZ_layoutABC _ _ _ _⟩

theorem OpcodeField.dmaConfigure : OpcodeField.Statement .dmaConfigure :=
  ⟨fieldOp_layoutABC _ _ _ _, fieldZ_layoutABC _ _ _ _⟩

theorem OpcodeField.dmaEnable : OpcodeField.Statement .dmaEnable :=
  ⟨fieldOp_layoutABC _ _ _ _, fieldZ_layoutABC _ _ _ _⟩

theorem OpcodeField.dmaDisable : OpcodeField.Statement .dmaDisable :=
  ⟨fieldOp_layoutABC _ _ _ _, fieldZ_layoutABC _ _ _ _⟩

theorem OpcodeField.dmaReprogram (p : Word) : OpcodeField.Statement (.dmaReprogram p) :=
  ⟨fieldOp_layoutAW _ _ _, fieldZ_layoutAW _ _ _⟩

theorem OpcodeField.dmaBeat (c : Channel) : OpcodeField.Statement (.dmaBeat c) :=
  ⟨fieldOp_layoutABC _ _ _ _, fieldZ_layoutABC _ _ _ _⟩

theorem OpcodeField.shiftOut : OpcodeField.Statement .shiftOut :=
  ⟨fieldOp_layoutABC _ _ _ _, fieldZ_layoutABC _ _ _ _⟩

theorem OpcodeField.tmrStep : OpcodeField.Statement .tmrStep :=
  ⟨fieldOp_layoutABC _ _ _ _, fieldZ_layoutABC _ _ _ _⟩

theorem OpcodeField.lineTick : OpcodeField.Statement .lineTick :=
  ⟨fieldOp_layoutABC _ _ _ _, fieldZ_layoutABC _ _ _ _⟩

theorem OpcodeField.irqMask : OpcodeField.Statement .irqMask :=
  ⟨fieldOp_layoutABC _ _ _ _, fieldZ_layoutABC _ _ _ _⟩

theorem OpcodeField.irqUnmask : OpcodeField.Statement .irqUnmask :=
  ⟨fieldOp_layoutABC _ _ _ _, fieldZ_layoutABC _ _ _ _⟩

theorem OpcodeField.cacheFlush (n : Half) (a : Word) : OpcodeField.Statement (.cacheFlush n a) :=
  ⟨fieldOp_layoutAW _ _ _, fieldZ_layoutAW _ _ _⟩

theorem OpcodeField.fbAlloc : OpcodeField.Statement .fbAlloc :=
  ⟨fieldOp_layoutABC _ _ _ _, fieldZ_layoutABC _ _ _ _⟩

theorem OpcodeField.fbFree : OpcodeField.Statement .fbFree :=
  ⟨fieldOp_layoutABC _ _ _ _, fieldZ_layoutABC _ _ _ _⟩

theorem OpcodeField.cacheEvict (a : Word) : OpcodeField.Statement (.cacheEvict a) :=
  ⟨fieldOp_layoutAW _ _ _, fieldZ_layoutAW _ _ _⟩

end Sys2Proof.Laws
end

