-- ==== Sys2Proof/Laws/Quiet.lean ====
section
/-! SUPPORT. What the shared composite operations do when the schedule gives the other agents no turn in their gaps: the
register writes of DMA_REPROGRAM, DMA_ENABLE and DMA_CONFIGURE, the lock poll, the zero fill and the row writers' stores,
and a beat. -/

namespace Sys2Proof.Machine

/-! ## Two writes to one flag register -/

theorem setFlag_ext {r q : Word} (h : ∀ i, i < 32 → getFlag r i = getFlag q i) : r = q := BitVec.eq_of_getLsbD_eq h

/-- A flag written as it reads changes nothing. -/
theorem setFlag_of_getFlag {r : Word} {i : Nat} {v : Bool} (hi : i < 32) (h : getFlag r i = v) : setFlag r i v = r := by
  refine setFlag_ext fun k _ => ?_
  by_cases hk : k = i
  · subst hk; rw [getFlag_setFlag_same r k v hi, h]
  · exact getFlag_setFlag_ne r i k v hi hk

/-- Writes to two flags commute. -/
theorem setFlag_comm (r : Word) {i j : Nat} (v w : Bool) (hi : i < 32) (hj : j < 32) (h : i ≠ j) :
    setFlag (setFlag r i v) j w = setFlag (setFlag r j w) i v := by
  refine setFlag_ext fun k _ => ?_
  by_cases hki : k = i
  · subst hki
    rw [getFlag_setFlag_ne _ j k w hj h, getFlag_setFlag_same r k v hi, getFlag_setFlag_same _ k v hi]
  · by_cases hkj : k = j
    · subst hkj
      rw [getFlag_setFlag_same _ k w hj, getFlag_setFlag_ne _ i k v hi hki, getFlag_setFlag_same r k w hj]
    · rw [getFlag_setFlag_ne _ j k w hj hkj, getFlag_setFlag_ne r i k v hi hki, getFlag_setFlag_ne _ i k v hi hki,
        getFlag_setFlag_ne r j k w hj hkj]

/-- The last write to a flag stands. -/
theorem setFlag_setFlag (r : Word) {i : Nat} (v w : Bool) (hi : i < 32) : setFlag (setFlag r i v) i w = setFlag r i w := by
  refine setFlag_ext fun k _ => ?_
  by_cases hk : k = i
  · subst hk; rw [getFlag_setFlag_same _ k w hi, getFlag_setFlag_same r k w hi]
  · rw [getFlag_setFlag_ne _ i k w hi hk, getFlag_setFlag_ne r i k v hi hk, getFlag_setFlag_ne r i k w hi hk]

/-! ## DMA_REPROGRAM, DMA_ENABLE, DMA_CONFIGURE -/

/-- R167's writes of SADDR[1] and BEAT[1], with no turn in the gap between them. -/
theorem readdressSecondary_quiet (C : Config) (p : Word) {s : State} (hq : s.gaps = []) :
    readdressSecondary C p s =
      .next { s with dma1 := { s.dma1 with saddr := p + s.shift, beat := s.secondaryBeat } } := by
  simp only [readdressSecondary]
  rw [gapWithout_of_quiet (by exact hq), andThen_next]
  rfl

/-- Whatever the schedule does between them, a relation that the agents' steps and the writes of channel 1's descriptor keep
is kept. -/
theorem readdressSecondary_keeps {C : Config} {R : State → State → Prop} (h : AgentRel C R)
    (hw : ∀ s d, R s { s with dma1 := d }) (p : Word) (s : State) : Keeps R id s (readdressSecondary C p s) := by
  refine Keeps.andThen (r := .next ()) (p := fun _ => { s with dma1 := { s.dma1 with saddr := p + s.shift } })
    (f := fun _ => readdressSecondary C p s) h.trans (hw s _) fun _ _ => ?_
  exact (h.gapWithout _ _).andThen (q := id) h.trans fun t _ => hw t { t.dma1 with beat := t.secondaryBeat }

/-- R167, with no turn in the gaps. -/
theorem reprogram_quiet (C : Config) (p : Word) {s : State} (hg : s.granular = true) (hq : s.gaps = []) :
    reprogram C p s =
      .next { s with
        dma0 := { s.dma0 with saddr := p }
        dma1 :=
          { s.dma1 with
            saddr := p + s.shift, beat := s.secondaryBeat, count := s.secondaryCount, rem := s.secondaryCount }
        flags := setFlag s.flags unalignedBit (!s.shiftAligned) } := by
  simp only [reprogram, hg, if_true, reprogramWrites, onChan]
  rw [inOrder_assign_of_quiet (by exact hq), inOrder_cons, readdressSecondary_quiet C p (by exact hq), andThen_next,
    gap_of_quiet (by exact hq), andThen_next]
  refine (inOrder_assigns_of_quiet [_, _, _] [] _ ?_ (by exact hq)).trans ?_
  · intro u hu x
    simp only [List.mem_cons, List.not_mem_nil, or_false] at hu
    rcases hu with rfl | rfl | rfl <;> rfl
  · simp only [List.foldl_cons, List.foldl_nil, inOrder_nil]
    refine congrArg Flow.next ?_
    apply State.ext <;> simp [State.secondaryBeat, State.secondaryCount, State.shiftAligned]

/-- R165, with no turn in the gaps. -/
theorem arm_quiet (C : Config) {s : State} (hq : s.gaps = []) :
    arm C s =
      .next { s with
        stream0 := [], stream1 := []
        dma0 := (s.dma0.setDone false).setErq true
        dma1 := (s.dma1.setDone false).setErq true
        frm := { (s.frm.setCorrupt s.overrun).setActive true with px := 0 } } := by
  simp only [arm, armWrites, onChan]
  refine (inOrder_assigns_of_quiet [_, _, _, _, _, _, _, _, _] [] s ?_ hq).trans ?_
  · intro u hu x
    simp only [List.mem_cons, List.not_mem_nil, or_false] at hu
    rcases hu with rfl | rfl | rfl | rfl | rfl | rfl | rfl | rfl | rfl <;> rfl
  · simp only [List.foldl_cons, List.foldl_nil, inOrder_nil]
    refine congrArg Flow.next ?_
    apply State.ext <;> simp [State.setStream, State.chan, State.setChan, Framer.setActive, Framer.setCorrupt]

/-- R163, with no turn in the gaps. -/
theorem configure_quiet (C : Config) {s : State} (hg : s.granular = true) (hq : s.gaps = []) :
    configure C s =
      .next { s with
        dma0 :=
          { saddr := s.fb.base, daddr := 0, beat := s.mode.gran
            count := BitVec.ofNat 32 (s.mode.stride.toNat / s.mode.gran.toNat)
            rem := BitVec.ofNat 32 (s.mode.stride.toNat / s.mode.gran.toNat)
            slast := 0 - s.mode.stride, dcsr := (((s.dma0.setDreq true).setErq false).setDone false).dcsr }
        dma1 :=
          { saddr := s.fb.base + s.shift, daddr := 1, beat := s.secondaryBeat
            count := s.secondaryCount, rem := s.secondaryCount
            slast := 0 - s.mode.stride, dcsr := (((s.dma1.setDreq true).setErq false).setDone false).dcsr }
        flags := setFlag s.flags unalignedBit (!s.shiftAligned) } := by
  simp only [configure, hg, if_true, configureChan, configurePrimary, onChan, List.cons_append, List.nil_append]
  refine (inOrder_assigns_of_quiet [_, _, _, _, _, _, _, _, _, _, _, _, _] [fun s => reprogram C s.fb.base s] s ?_ hq).trans ?_
  · intro u hu x
    simp only [List.mem_cons, List.not_mem_nil, or_false] at hu
    rcases hu with rfl | rfl | rfl | rfl | rfl | rfl | rfl | rfl | rfl | rfl | rfl | rfl | rfl <;> rfl
  · simp only [List.foldl_cons, List.foldl_nil]
    rw [inOrder_cons, reprogram_quiet C _ (by simpa [State.granular] using hg) (by simpa using hq)]
    rw [andThen_next, gap_of_quiet (by simpa using hq), andThen_next, inOrder_nil]
    refine congrArg Flow.next ?_
    apply State.ext <;> simp [State.secondaryBeat, State.secondaryCount, State.shiftAligned, portNumber]

/-! ## CLK_PROGRAM -/

/-- R143: with no turn in the gaps every poll reads the same LOCK. -/
theorem pollLock_quiet (C : Config) (n : Nat) {s : State} (hq : s.gaps = []) :
    pollLock C n s = .next (s.pllLocked, s) := by
  induction n with
  | zero => rfl
  | succ n ih =>
    simp only [pollLock, gap_of_quiet hq, andThen_next, ih]
    split
    · rename_i h; rw [h]
    · rfl

/-- R143 and the draw `lock_ok`, with no turn in the gaps. -/
theorem programClock_quiet (C : Config) (target : Nat) {s : State} (hq : s.gaps = []) :
    programClock C target s =
      .next (C.lockOk s.draws, { s with
        pll :=
          { div := BitVec.ofNat 32 (clkSearch C target).1, num := BitVec.ofNat 32 (clkSearch C target).2
            denom := BitVec.ofNat 32 C.denom0
            ctrl := setFlag (setFlag s.pll.ctrl 31 (C.lockOk s.draws)) 0 true }
        draws := s.draws + 1 }) := by
  simp only [programClock, writeClockProgram]
  refine (congrArg (andThen · _) (inOrder_assigns_of_quiet [_, _, _, _, _] [] s ?_ hq)).trans ?_
  · intro u hu x
    simp only [List.mem_cons, List.not_mem_nil, or_false] at hu
    rcases hu with rfl | rfl | rfl | rfl | rfl <;> rfl
  simp only [List.foldl_cons, List.foldl_nil, inOrder_nil, andThen_next]
  have hl : ∀ x : State, x.pllLocked = getFlag x.pll.ctrl 31 := fun _ => rfl
  have h31 : getFlag (setFlag (setFlag s.pll.ctrl 31 false) 0 true) 31 = false := by
    rw [getFlag_setFlag_ne _ _ _ _ (by decide) (by decide), getFlag_setFlag_same _ _ _ (by decide)]
  rw [pollLock_quiet _ _ (by simpa [drawLock] using hq)]
  refine congrArg Flow.next (Prod.ext ?_ ?_)
  · simp [drawLock, State.setPllLock, State.setPllEnable, hl, h31, getFlag_setFlag_same _ 31 _ (by decide)]
  apply State.ext <;> simp [drawLock, State.setPllLock, State.setPllEnable, hl, h31]
  rw [setFlag_comm _ _ _ (by decide) (by decide) (by decide), setFlag_setFlag _ _ _ (by decide)]

/-! ## Runs of host stores -/

/-- R81, R228: with no turn in the gaps a run of stores inside the frame buffer completes; each of its bytes is dirty with
its value, and nothing else changes. -/
theorem storeRun_quiet (C : Config) (value : Nat → Byte) (base n : Nat) :
    ∀ (i : Nat) (s : State), s.gaps = [] → (∀ k, k < n → s.inFrameBuffer (base + i + k) = true) →
      ∃ t, storeRun C value base n i s = .next t ∧ t = { s with cache := t.cache }
        ∧ ∀ x, memGet t.cache x =
            if base + i ≤ x ∧ x < base + i + n then some (value (x - base)) else memGet s.cache x := by
  induction n with
  | zero =>
    intro i s _ _
    refine ⟨s, rfl, rfl, fun x => ?_⟩
    rw [if_neg (by omega)]
  | succ n ih =>
    intro i s hq hin
    have h0 : s.inFrameBuffer (base + i) = true := by simpa using hin 0 (by omega)
    obtain ⟨t, h1, h2, h3⟩ := ih (i + 1) { s with cache := memSet s.cache (base + i) (value i) } hq (by
      intro k hk
      have := hin (k + 1) (by omega)
      rw [show base + (i + 1) + k = base + i + (k + 1) by omega]
      exact this)
    refine ⟨t, ?_, h2, fun x => ?_⟩
    · rw [storeRun, storeByte_of_inside h0, asPart_next, andThen_next, gap_of_quiet (by exact hq), andThen_next]
      exact h1
    · rw [h3]
      by_cases hx : x = base + i
      · subst hx
        rw [if_neg (by omega), if_pos (by omega)]
        simp [memGet_memSet_same]
      · by_cases hr : base + (i + 1) ≤ x ∧ x < base + (i + 1) + n
        · rw [if_pos hr, if_pos (by omega)]
        · rw [if_neg hr, if_neg (by omega)]
          exact memGet_memSet_ne _ _ _ _ hx

/-! ## A beat -/

/-- R82, R169: with no turn in the gaps a beat reads its bytes one after the other; those inside the frame buffer are
`MEM`'s, and only the number of the next draw changes. -/
theorem beatBytes_quiet (C : Config) (c : Channel) (n : Nat) :
    ∀ (a : Nat) (acc : List Byte) (b : OpenBeats) (s : State), s.gaps = [] →
      ∃ bs d, beatBytes C c n a acc b s = .next (acc ++ bs, b, { s with draws := d }) ∧ bs.length = n
        ∧ (∀ i, i < n → s.inFrameBuffer (a + i) = true → bs[i]? = some (memByte C s (a + i)))
        ∧ ((∀ i, i < n → s.inFrameBuffer (a + i) = true) → d = s.draws) := by
  induction n with
  | zero => intro a acc b s _; exact ⟨[], s.draws, by simp [beatBytes], rfl, by simp, fun _ => rfl⟩
  | succ n ih =>
    intro a acc b s hq
    have hr := dmaReadByte_state C a s
    generalize hd : (dmaReadByte C a s).2.draws = d0 at hr
    obtain ⟨bs, d, h1, h2, h3, h4⟩ := ih (a + 1) (acc ++ [(dmaReadByte C a s).1]) b { s with draws := d0 } hq
    refine ⟨(dmaReadByte C a s).1 :: bs, d, ?_, by simp [h2], ?_, ?_⟩
    · rw [beatBytes, hr, gapTurns_of_quiet (by exact hq)]
      exact h1.trans (by rw [List.append_assoc]; rfl)
    · intro i hi hin
      cases i with
      | zero => simp [dmaReadByte, show s.inFrameBuffer a = true from hin]
      | succ i =>
        have := h3 i (by omega) (by rw [show a + 1 + i = a + (i + 1) by omega]; exact hin)
        rw [show a + 1 + i = a + (i + 1) by omega] at this
        simpa [memByte] using this
    · intro hin
      rw [h4 (fun i hi => by
        have := hin (i + 1) (by omega)
        rw [show a + 1 + i = a + (i + 1) by omega]
        exact this)]
      have h0 : s.inFrameBuffer a = true := by simpa using hin 0 (by omega)
      simp [dmaReadByte, h0] at hd
      exact hd.symm

end Sys2Proof.Machine
end

