-- ==== Sys2Proof/Tests/Slice0.lean ====
section
/-! SUPPORT. Tests of the model: the smoke test of `WellFormed`; words written out from spec/30_encoding.md and
spec/95_test_vectors.md part K; at most two small tests per operation, with the vector of spec/95_test_vectors.md that
each follows; and, for every obligation with hypotheses, a state and operands that meet them (`witness_…`). The
configuration is CFG-T, "the spec's own"; it "is not a claim about the chip". -/

namespace Sys2Proof.Tests

open Sys2Proof.Machine

set_option Elab.async false

/-! ## Well-formedness -/

theorem test_wellFormed_row : (Instr.writeRowNative 5 2 [1, 2]).wellFormed = true := by decide
theorem test_illFormed_native : (Instr.writeRowNative 5 3 [1, 2]).wellFormed = false := by decide
theorem test_illFormed_pal8 : (Instr.writeRowPal8 1 0 [7]).wellFormed = false := by decide
theorem test_illFormed_rgb565 : (Instr.writeRowRgb565 0 2 [0xF800]).wellFormed = false := by decide

/-! ## Words (R100 to R112; VK20 to VK34, VD30 to VD43, VH1 to VH9, VI1 to VI27, VJ3, VJ4) -/

theorem test_word_nop : decode 0x0000123456789ABC [] = .ok (.nop, []) := by decide
theorem test_word_begin : decode 0x010000000000FF01 [] = .ok (.beginMode 1, []) := by decide
theorem test_word_end : decode 0x0200000000000000 [] = .ok (.endMode, []) := by decide
theorem test_word_tweak : decode 0x03000001FFFB000A [] = .ok (.tweak 1 (-5) 10, []) := by decide
theorem test_word_wait_vsync : decode 0x0400000000000000 [] = .ok (.waitVsync, []) := by decide
theorem test_word_wait_line : decode 0x0500000000000203 [] = .ok (.waitLine 515, []) := by decide
theorem test_word_frame_size : decode 0x0600000000000000 [] = .ok (.frameSize, []) := by decide
theorem test_word_row_pointer : decode 0x0700000001DF0000 [] = .ok (.rowPointer 479, []) := by decide
theorem test_word_get_pixel : decode 0x0800FFFF00000000 [] = .ok (.getPixel (-1) 0, []) := by decide
theorem test_word_set_pixel : decode 0x09000003000201E0 [] = .ok (.setPixel 3 2 0xE0, []) := by decide
theorem test_word_write_row_native :
    decode 0x0A00000000050003 [0x11, 0x22, 0x33] = .ok (.writeRowNative 5 3 [0x11, 0x22, 0x33], []) := by decide
theorem test_word_write_row_pal8 :
    decode 0x0B00000000010004 [0, 1, 2, 255, 9] = .ok (.writeRowPal8 1 4 [0, 1, 2, 255], [9]) := by decide
theorem test_word_write_row_rgb565 :
    decode 0x0C00000000000002 [0xF800, 0x07FF] = .ok (.writeRowRgb565 0 2 [0xF800, 0x07FF], []) := by decide
theorem test_word_fb_load : decode 0x0D0000002025281F [] = .ok (.fbLoad 0x2025281F, []) := by decide
theorem test_word_fb_store : decode 0x0E00007F20200030 [] = .ok (.fbStore 0x7F 0x20200030, []) := by decide
theorem test_word_rdreg : decode 0x0F00000000000003 [] = .ok (.rdreg 3, []) := by decide
theorem test_word_mode_resolve : decode 0x4000000000000001 [] = .ok (.modeResolve 1, []) := by decide
theorem test_word_clk_program : decode 0x41000000018023D8 [] = .ok (.clkProgram 25175000, []) := by decide
theorem test_word_pll_lock : decode 0x4200000000000000 [] = .ok (.pllLock, []) := by decide
theorem test_word_dma_configure : decode 0x4300000000000000 [] = .ok (.dmaConfigure, []) := by decide
theorem test_word_dma_enable : decode 0x4400000000000000 [] = .ok (.dmaEnable, []) := by decide
theorem test_word_dma_disable : decode 0x4500000000000000 [] = .ok (.dmaDisable, []) := by decide
theorem test_word_dma_reprogram : decode 0x46000000202002C0 [] = .ok (.dmaReprogram 0x202002C0, []) := by decide
theorem test_word_dma_beat : decode 0x4700000000000001 [] = .ok (.dmaBeat .secondary, []) := by decide
theorem test_word_shift_out : decode 0x4800000000000000 [] = .ok (.shiftOut, []) := by decide
theorem test_word_tmr_step : decode 0x4900000000000000 [] = .ok (.tmrStep, []) := by decide
theorem test_word_line_tick : decode 0x4A00000000000000 [] = .ok (.lineTick, []) := by decide
theorem test_word_irq_mask : decode 0x4B00000000000000 [] = .ok (.irqMask, []) := by decide
theorem test_word_irq_unmask : decode 0x4C00000000000000 [] = .ok (.irqUnmask, []) := by decide
theorem test_word_cache_flush : decode 0x4D0002C020200000 [] = .ok (.cacheFlush 704 0x20200000, []) := by decide
theorem test_word_fb_alloc : decode 0x4E00000000000000 [] = .ok (.fbAlloc, []) := by decide
theorem test_word_fb_free : decode 0x4F00000000000000 [] = .ok (.fbFree, []) := by decide
theorem test_word_cache_evict : decode 0x50000000202005B3 [] = .ok (.cacheEvict 0x202005B3, []) := by decide

theorem test_reject_z : decode 0x0101000000000000 [] = .error .zNotZero := by decide
theorem test_reject_audio : decode 0x1000000000000000 [] = .error .reservedForAudio
    ∧ decode 0x1100000000000000 [] = .error .reservedForAudio := by decide
theorem test_reject_unassigned : decode 0x1200000000000000 [] = .error .unassignedHost
    ∧ decode 0x5100000000000000 [] = .error .unassignedInternal
    ∧ decode 0xFF00000000000000 [] = .error .reservedOpcode := by decide
theorem test_reject_internal_on_cmd : decodeHost 0x4A00000000000000 [] = .error .internalOnCmdPort
    ∧ decodeInternal 0x4A00000000000000 = .ok .lineTick := by decide
theorem test_payload_incomplete : decode 0x0A00000000050003 [0x11, 0x22] = .error .payloadIncomplete := by decide

/-! ## CFG-T (spec/95_test_vectors.md part B) -/

/-- An entry of CFG-T's mode table. -/
def entry (width height : Nat) (ld combine : Bool) (n d shift0 : Nat) : ModeEntry :=
  { width := width, height := height, ld := ld, combine := combine, clkdivN := n, clkdivD := d, shift0 := shift0
    totalLines := 525, topBlank := 35 }

/-- A mode of 8 by 4 pixels for the tests that fill or read a whole buffer: LBORDER 3, RBORDER 1, STRIDE 12, GRAN 4, a
buffer of 80 bytes. Not an entry of CFG-T. -/
def tiny : ModeEntry :=
  { width := 8, height := 4, ld := false, combine := false, clkdivN := 16, clkdivD := 1, shift0 := 0, totalLines := 6
    topBlank := 1 }

/-- CFG-T, with `tiny` under mode id 5. -/
def cfgT : Config :=
  { fRef := 24000000, divMin := 10, divMax := 60, denom0 := 10000, postDiv := 24, lockTimeout := 1000
    clkTolNum := 5, clkTolDen := 1000, pixRefFreq := 25175000, backporchPix := 48, frontporchPix := 16
    modeTable := fun m =>
      match m.toNat with
      | 0 => some (entry 640 480 false true 1 1 8)
      | 1 => some (entry 320 240 true false 2 1 4)
      | 2 => some (entry 512 240 true false 13 10 4)
      | 3 => some (entry 400 240 true false 3 2 4)
      | 4 => some (entry 352 240 true false 7 4 4)
      | 5 => some tiny
      | _ => none
    skew := fun m => if m = 0 then 8 else 4
    shiftMax := 15, fbPad := 32, fbAlign := 32, hsLow := 96, hsRest := 704, vsyncActive := false
    pal := fun i => 255 - i
    conv565 := fun v => v.extractLsb' 13 3 ++ v.extractLsb' 8 3 ++ v.extractLsb' 3 2
    lockOk := fun _ => true, alloc := fun _ => some 0x20200000, strayByte := fun _ => 0x77
    corruptColour := fun _ => 0xCC, memInit := fun _ a => BitVec.ofNat 8 (7 * a + 3), oversize := fun _ _ => 0 }

theorem witness_cfgT_legal : cfgT.Legal where
  fRef_pos := by decide
  divMin_pos := by decide
  divMin_le := by decide
  divMax_lt := by decide
  denom0_pos := by decide
  denom0_lt := by decide
  postDiv_pos := by decide
  lockTimeout_pos := by decide
  pixRefFreq_pos := by decide
  mode0 := ⟨8, 35, rfl⟩
  skew_le := fun m => by
    show (if m = 0 then 8 else 4) ≤ 15
    split <;> decide
  fbPad_ge := by decide
  fbAlign_pos := by decide
  fbAlign_dvd := by decide
  hsLow_pos := by decide
  hsRest_pos := by decide

/-- The state an operation answers. -/
def after (r : Result) : State :=
  match r with
  | .next s => s
  | .fault _ => State.reset
  | .refused _ => State.reset

/-- An operation answers a next state. -/
def isNext (r : Result) : Bool :=
  match r with
  | .next _ => true
  | .fault _ => false
  | .refused _ => false

/-- An operation answers exactly the next state `s`. -/
def answers (r : Result) (s : State) : Bool :=
  match r with
  | .next t => decide (t = s)
  | .fault _ => false
  | .refused _ => false

/-- An operation is refused with `e`. -/
def refusedWith (r : Result) (e : Refusal) : Bool :=
  match r with
  | .next _ => false
  | .fault _ => false
  | .refused e' => decide (e' = e)

theorem exists_next {r : Result} (h : isNext r = true) : ∃ t, r = .next t := by
  cases r with
  | next t => exact ⟨t, rfl⟩
  | fault e => cases h
  | refused e => cases h

theorem next_after {r : Result} (h : isNext r = true) : r = .next (after r) := by
  cases r with
  | next t => rfl
  | fault e => cases h
  | refused e => cases h

/-- The registers of program L1 after its step 1 (BEGIN 0), with every byte of `CACHE` written back. -/
def l1 : State :=
  { State.reset with
    stateReg := 1
    mode :=
      { modeId := 0, width := 640, height := 480, stride := 704, mflags := 2, shift0 := 8, clkdivN := 1, clkdivD := 1
        lborder := 48, rborder := 16, totalLines := 525, topBlank := 35, gran := 8 }
    shift := 8
    pll := { div := 25, num := 1750, denom := 10000, ctrl := 0x80000001 }
    tmr := { cnt := 0, cmp1 := 96, cmp2 := 704, ctrl := 3 }
    dma0 := { saddr := 0x20200000, daddr := 0, beat := 8, count := 88, rem := 88, slast := 0xFFFFFD40, dcsr := 2 }
    dma1 := { saddr := 0x20200008, daddr := 1, beat := 8, count := 88, rem := 88, slast := 0xFFFFFD40, dcsr := 2 }
    fb := { base := 0x20200000, size := 337952, ctrl := 1 } }

/-- The registers after BEGIN of `tiny`. -/
def run : State :=
  { l1 with
    mode :=
      { modeId := 5, width := 8, height := 4, stride := 12, mflags := 0, shift0 := 0, clkdivN := 16, clkdivD := 1
        lborder := 3, rborder := 1, totalLines := 6, topBlank := 1, gran := 4 }
    shift := 0
    dma0 := { saddr := 0x20200000, daddr := 0, beat := 4, count := 3, rem := 3, slast := 0xFFFFFFF4, dcsr := 2 }
    dma1 := { saddr := 0x20200000, daddr := 1, beat := 4, count := 3, rem := 3, slast := 0xFFFFFFF4, dcsr := 2 }
    fb := { base := 0x20200000, size := 80, ctrl := 1 } }

/-- What `tiny` resolves to under CFG-T. -/
def tinyMode : ResolvedMode :=
  { modeId := 5, width := 8, height := 4, stride := 12, ld := false, combine := false, shift0 := 0, clkdivN := 16
    clkdivD := 1, lborder := 3, rborder := 1, totalLines := 6, topBlank := 1, gran := 4 }

/-- `s` with the line interrupt pending on line `n`. -/
def pendingAt (n : Word) (s : State) : State := { s with line := n, tmr := s.tmr.setCtrl 4 true }

/-! ## One step of an operation (the vector is named after the test) -/

/-- VC1. -/
theorem test_mode_resolve : (resolveMode cfgT 0).map (fun m => (m.stride, m.lborder, m.gran, m.ld, m.combine)) =
    some (704, 48, 8, false, true) := by decide +kernel
/-- VC4, VC6. -/
theorem test_mode_resolve_none : resolveMode cfgT 3 = none ∧ resolveMode cfgT 9 = none := by decide +kernel
/-- VC11. -/
theorem test_frame_size : (after (exec .frameSize l1)).result0 = 640 ∧ (after (exec .frameSize l1)).result1 = 480 := by
  decide +kernel
/-- VD20. -/
theorem test_clk_program : (after (clkProgram cfgT 25175000 State.reset)).pll =
    { div := 25, num := 1750, denom := 10000, ctrl := 0x80000001 } := by decide +kernel
/-- VD3, VD6, VD8, VD11, VD13. -/
theorem test_clk_search : [19365384, 25000050, 59999950, 5000000, 61000000].map (clkSearch cfgT) =
    [(19, 3654), (25, 0), (59, 9999), (10, 0), (60, 9999)] := by decide +kernel
/-- VD1's frequency, 25 175 000 Hz, exactly; none in reset. -/
theorem test_pixel_frequency :
    pixelFrequency cfgT l1 = some (25175000 * (10000 * 24), 10000 * 24) ∧ pixelFrequency cfgT State.reset = none := by
  decide +kernel
/-- VD22. -/
theorem test_pll_lock : (after (exec .pllLock { State.reset with pll := { Pll.off with ctrl := 1 } })).pll.ctrl =
    0x80000001 := by decide +kernel
/-- VD33, VD34, VD40. -/
theorem test_tweak_shift : (after (tweak cfgT 8 0 0 l1)).shift = 8 ∧ (after (tweak cfgT (-9) 0 0 l1)).shift = 8
    ∧ (after (tweak cfgT 1 (-2000) 0 l1)).shift = 9 := by decide +kernel
/-- VD38, VD39. -/
theorem test_tweak_clock : (after (tweak cfgT 0 0 (-8250) l1)).pll.denom = 10000
    ∧ (after (tweak cfgT 0 0 (-8249) l1)).pll.denom = 1751 := by decide +kernel
/-- VE1. -/
theorem test_dma_configure :
    (after (dmaConfigure cfgT { l1 with stateReg := 0, dma0 := Descriptor.zero, dma1 := Descriptor.zero })).dma1 =
      l1.dma1 := by decide +kernel
/-- VE8. -/
theorem test_dma_enable : (after (exec .dmaEnable l1)).frm.ctrl = 1 ∧ (after (exec .dmaEnable l1)).dma0.dcsr = 3 := by
  decide +kernel
/-- VE9. -/
theorem test_dma_enable_overrun :
    (after (exec .dmaEnable { l1 with dma0 := { l1.dma0 with rem := 40 } })).frm.ctrl = 3 := by decide +kernel
/-- VE14. -/
theorem test_dma_disable :
    (after (exec .dmaDisable { l1 with dma0 := { l1.dma0 with rem := 40, dcsr := 3 } })).dma0 =
      { l1.dma0 with rem := 40 } := by decide +kernel
/-- VE4. -/
theorem test_dma_reprogram : (after (exec (.dmaReprogram 0x202002C0) { l1 with shift := 9 })).dma1 =
    { l1.dma1 with saddr := 0x202002C9, beat := 1, count := 704, rem := 704 } := by decide +kernel
/-- VE10. -/
theorem test_dma_beat :
    let t := after (dmaBeat cfgT .primary { l1 with dma0 := { l1.dma0 with dcsr := 3 }, mem := [(0x20200002, 0xE0)] })
    t.stream0 = [3, 10, 0xE0, 24, 31, 38, 45, 52] ∧ t.dma0.saddr = 0x20200008 ∧ t.dma0.rem = 87 := by decide +kernel
/-- VE11, the last of the 88 beats. -/
theorem test_dma_beat_last :
    let d : Descriptor := { l1.dma0 with saddr := 0x202002B8, rem := 1, dcsr := 3 }
    (after (dmaBeat cfgT .primary { l1 with dma0 := d })).dma0 = { l1.dma0 with dcsr := 6 } := by decide +kernel
/-- VE20, VE21. -/
theorem test_shift_out :
    let s := { run with stream0 := [1, 2, 3, 4, 0x5E], stream1 := [0x9A], frm := { px := 4, ctrl := 1, color := 0 } }
    (pixelClock cfgT s).frm = { px := 5, ctrl := 1, color := 0x9E }
      ∧ (pixelClock cfgT { s with frm := { px := 3, ctrl := 1, color := 0 } }).frm.color = 0x04 := by decide +kernel
/-- VE23. -/
theorem test_shift_out_end : (pixelClock cfgT { l1 with frm := { px := 712, ctrl := 1, color := 7 } }).frm =
    { px := 712, ctrl := 0, color := 0 } := by decide +kernel
/-- VF2; and R34: HSYNC is seen to rise. -/
theorem test_tmr_step :
    let t := after (exec .tmrStep { l1 with tmr := { l1.tmr with cnt := 95 } })
    t.tmr = { l1.tmr with cnt := 0, ctrl := 0x1F }
      ∧ (observable cfgT t).sequence = [{ hsync := true, vsync := true, color := 0 }] := by decide +kernel
/-- VF5. -/
theorem test_tmr_step_rest : (after (exec .tmrStep { l1 with tmr := { l1.tmr with cnt := 703, ctrl := 0x0F } })).tmr =
    { l1.tmr with cnt := 0, ctrl := 0x23 } := by decide +kernel
/-- VG8, VF3. -/
theorem test_line_tick_wrap :
    let t := after (exec .lineTick { (pendingAt 524 l1) with tmr := { l1.tmr with ctrl := 0x3F } })
    t.line = 0 ∧ t.flags = 3 ∧ t.tmr.ctrl = 0x0F ∧ t.dma0 = l1.dma0 := by decide +kernel
/-- VG10. -/
theorem test_line_tick_visible :
    let t := after (exec .lineTick { (pendingAt 35 l1) with shift := 9 })
    t.line = 36 ∧ t.flags = 8 ∧ t.dma0.saddr = 0x202002C0 ∧ t.dma1.saddr = 0x202002C9 ∧ t.dma1.beat = 1 := by
  decide +kernel
/-- R201, R202. -/
theorem test_irq_mask : (after (exec .irqMask { l1 with flags := 0x8 })).flags = 0xC
    ∧ (after (exec .irqUnmask { l1 with flags := 0x7 })).flags = 3 := by decide +kernel
/-- VH1, VH2. -/
theorem test_wait_vsync : (after (exec .waitVsync l1)).pending = some .waitVsync
    ∧ (after (exec .waitVsync { l1 with flags := 3 })).pending = none := by decide +kernel
/-- VH5, VH7. -/
theorem test_wait_line : (after (exec (.waitLine 515) { l1 with line := 516 })).pending = some (.waitLine 515)
    ∧ (after (exec (.waitLine 0) State.reset)).pending = none := by decide +kernel
/-- VH10, VH12. -/
theorem test_rdreg : [0x23, 0x13, 0x61, 0x45, 0x05, 0xFF].map (readRegister l1) =
    [0x80000001, 704, 337952, 0xFFFFFD40, 0, 0] := by decide +kernel
/-- VK20. -/
theorem test_nop : answers (exec .nop l1) l1 = true := by decide +kernel
/-- VI3, VI4. -/
theorem test_row_pointer : (after (exec (.rowPointer 479) l1)).result0 = 0x20252570
    ∧ (after (exec (.rowPointer 480) l1)).result0 = 0 ∧ (after (exec (.rowPointer (-1)) l1)).result0 = 0 := by
  decide +kernel
/-- VI5, VI7. -/
theorem test_set_pixel : (after (exec (.setPixel 3 2 0xE0) l1)).cache = [(0x202005B3, 0xE0)]
    ∧ (after (exec (.setPixel 639 479 0x55) l1)).cache = [(0x202527EF, 0x55)] := by decide +kernel
/-- VI8, VI9. -/
theorem test_set_pixel_outside : answers (exec (.setPixel 640 2 0xFF) l1) l1 = true
    ∧ answers (exec (.setPixel (-1) 0 0xFF) l1) l1 = true ∧ answers (exec (.setPixel 0 480 0xFF) l1) l1 = true := by decide +kernel
/-- VI6, VI10. -/
theorem test_get_pixel : (after (getPixel cfgT 3 2 { l1 with cache := [(0x202005B3, 0xE0)] })).result0 = 0xE0
    ∧ (after (getPixel cfgT 640 0 { l1 with result0 := 7 })).result0 = 0 := by decide +kernel
/-- R229's example. -/
theorem test_write_row_native : (after (exec (.writeRowNative 0 3 [0x0A, 0x0B, 0x0C]) run)).cache.map Prod.snd =
    [0x0A, 0x0A, 0x0A, 0x0B, 0x0B, 0x0B, 0x0C, 0x0C] := by decide +kernel
/-- VI26. -/
theorem test_write_row_native_outside : answers (exec (.writeRowNative 4 2 [1, 2]) run) run = true
    ∧ answers (exec (.writeRowNative (-1) 2 [1, 2]) run) run = true := by decide +kernel
/-- VI27, eight pixels wide. -/
theorem test_write_row_pal8 : (after (writeRow cfgT cfgT.pal 1 4 [0, 1, 2, 255] run)).cache.map Prod.snd =
    [0xFF, 0xFF, 0xFE, 0xFE, 0xFD, 0xFD, 0x00, 0x00] := by decide +kernel
/-- VI28, eight pixels wide. -/
theorem test_write_row_rgb565 : (after (writeRow cfgT cfgT.conv565 0 2 [0xF800, 0x07FF] run)).cache.map Prod.snd =
    [0xE0, 0xE0, 0xE0, 0xE0, 0x1F, 0x1F, 0x1F, 0x1F] := by decide +kernel
/-- VI16. -/
theorem test_fb_load : refusedWith (exec (.fbLoad 0x20252820) l1) .outsideFrameBuffer = true
    ∧ refusedWith (exec (.fbLoad 0x201FFFFF) l1) .outsideFrameBuffer = true
    ∧ isNext (exec (.fbLoad 0x2025281F) l1) = true := by decide +kernel
/-- VI13. -/
theorem test_fb_store : (after (exec (.fbStore 0x7F 0x20200030) l1)).cache = [(0x20200030, 0x7F)] := by decide +kernel
/-- VC1's buffer size. -/
theorem test_fb_alloc : (after (fbAlloc cfgT { l1 with fb := FrameBuffer.none })).fb = l1.fb := by decide +kernel
/-- R238: not while a channel is armed. -/
theorem test_fb_free : (after (exec .fbFree l1)).fb = FrameBuffer.none
    ∧ answers (exec .fbFree { l1 with dma1 := { l1.dma1 with dcsr := 3 } })
        { l1 with dma1 := { l1.dma1 with dcsr := 3 } } = true := by decide +kernel
/-- VJ4, VJ5. -/
theorem test_cache_flush :
    let s := { l1 with cache := [(0x202005B3, 0xE0)] }
    (after (exec (.cacheFlush 52 0x20200580) s)).mem = [(0x202005B3, 0xE0)]
      ∧ answers (exec (.cacheFlush 51 0x20200580) s) s = true := by decide +kernel
/-- VJ3. -/
theorem test_cache_evict : answers (exec (.cacheEvict 0x202005B3) { l1 with cache := [(0x202005B3, 0xE0)] })
    { l1 with mem := [(0x202005B3, 0xE0)] } = true := by decide +kernel
/-- R221, for `tiny`. -/
theorem test_begin :
    let t := after (beginMode cfgT 5 State.reset)
    t.stateReg = 1 ∧ t.fb = run.fb ∧ t.dma1 = run.dma1 ∧ t.tmr = run.tmr ∧ hostByte cfgT t 0x2020004F = 0
      ∧ t.cache.length = 80 := by decide +kernel
/-- VK3, VK4, VK6; and R222: RESULT1 is at its reset value too. -/
theorem test_begin_fails :
    answers (beginMode { cfgT with lockOk := fun _ => false, alloc := fun _ => none } 0 { State.reset with result1 := 480 })
        { State.reset with result0 := 3, draws := 1 } = true
      ∧ answers (beginMode { cfgT with alloc := fun _ => none } 0 State.reset)
        { State.reset with result0 := 1, draws := 2 } = true
      ∧ answers (beginMode { cfgT with lockOk := fun _ => false } 9 { State.reset with result1 := 480 })
        { State.reset with result0 := 2 }
        = true := by
  decide +kernel
/-- R143, R250: P_LOCK_TIMEOUT = 1: the one poll has read 0 when the PLL locks in the gap after it. -/
theorem test_begin_one_poll :
    (after (beginMode { cfgT with lockTimeout := 1, lockOk := fun _ => false } 5
      { State.reset with gaps := List.replicate 6 [] ++ [[.pllLock]] })).result0 = 3
    ∧ (after (beginMode { cfgT with lockTimeout := 2, lockOk := fun _ => false } 5
      { State.reset with gaps := List.replicate 6 [] ++ [[.pllLock]] })).result0 = 0 := by decide +kernel
/-- VK9, VK11. -/
theorem test_end :
    answers
      (exec .endMode { (pendingAt 40 l1) with frm := { px := 9, ctrl := 3, color := 5 }, stream0 := [1], result1 := 8 })
      { State.reset with result1 := 8 } = true := by decide +kernel

/-- R280: a RESET in the gap after the first step of a tick abandons it. -/
theorem test_reset_abandons_tick :
    let s := { pendingAt 5 run with result1 := 9, gaps := [[.tmrStep, .reset, .tmrStep], [.tmrStep]] }
    let t := after (exec .lineTick s)
    t.stateReg = 0 ∧ t.flags = 0 ∧ t.result1 = 0 ∧ t.fb = FrameBuffer.none ∧ t.gaps = [[.tmrStep]]
      ∧ t.shown.length = 1 := by decide +kernel
/-- R34: a TMR_STEP in the gap before a tick's step 3 comes before the tick's own sample. -/
theorem test_observable_order :
    let s := { pendingAt 5 run with gaps := [[.tmrStep]] }
    (observable cfgT (after (exec .lineTick s))).sequence =
      [{ hsync := false, vsync := true, color := 0 }, { hsync := false, vsync := false, color := 0 }] := by
  decide +kernel
/-- R121, R11, R27 (e): a number that fits its register is held; of one that does not, a legal value. -/
theorem test_held :
    let far := { tinyMode with totalLines := 2 ^ 40, topBlank := 2 ^ 32 - 2 }
    cfgT.held 0x1A 5 largestWord 525 = 525 ∧ cfgT.held 0x1A 5 largestWord (2 ^ 32) = 5
    ∧ ({ tinyMode with totalLines := 2 ^ 32 }).heldTotalLines cfgT = 5
    ∧ (far.heldTopBlank cfgT, far.heldTotalLines cfgT) = (0, 4)
    ∧ (resolveMode { cfgT with modeTable := fun _ => some { tiny with totalLines := 2 ^ 40 } } 7).isSome = true := by
  decide +kernel

/-! ## Witnesses: for each obligation with hypotheses, a state and operands that meet them -/

/-- `s` with HOST about to take the word `w` from the CMD port. -/
def presenting (w : Command) (data : List Half) (s : State) : State := { s with cmd := [w], data := data }

/-- `s` with an agent of the block to perform the word `w` next. -/
def agentNext (w : Command) (s : State) : State := { s with agenda := [.agent w] }

/-- `run` with a pixel that the host has written and no agent has written back. -/
def dirty : State := { run with mem := [(0x20200003, 1)], cache := [(0x20200003, 0xE0), (0x2020004F, 7)] }

/-- `run` in the middle of a line. -/
def lineActive : State :=
  { run with
    dma0 := { run.dma0 with dcsr := 3 }, dma1 := { run.dma1 with dcsr := 3 }, frm := { px := 0, ctrl := 1, color := 0 } }

theorem witness_DecodeOfEncode : (Instr.writeRowPal8 (-1) 2 [1, 2]).wellFormed = true := by decide

theorem witness_DecodedWordMatches :
    decode 0x0A00000000050002 [0x11, 0x22, 0x33] = .ok (.writeRowNative 5 2 [0x11, 0x22], [0x33]) := by decide

theorem witness_AssignedOpcodes : fieldZ 0x0F00000000000000 = 0 ∧ fieldZ 0x1000000000000000 = 0
    ∧ fieldZ 0x3F00000000000000 = 0 ∧ fieldZ 0x4000000000000000 = 0 ∧ fieldZ 0x5000000000000000 = 0
    ∧ fieldZ 0x5100000000000000 = 0 := by decide

theorem witness_StepRunsDecodedOperation_host :
    let s := presenting 0x0C00000000000001 [0xF800, 9] run
    s.pending = none ∧ s.irqMasked = false ∧ s.cmd = [0x0C00000000000001] ∧ s.agenda = []
      ∧ decodeHost 0x0C00000000000001 s.data = .ok (.writeRowRgb565 0 1 [0xF800], [9])
      ∧ ({ s with agenda := [.host, .reset] }).agenda = .host :: [.reset] := by decide +kernel

theorem witness_StepRunsDecodedOperation_agent :
    (agentNext 0x4A00000000000000 run).agenda = .agent 0x4A00000000000000 :: []
      ∧ decodeInternal 0x4A00000000000000 = .ok .lineTick := by decide +kernel

theorem witness_StepRunsDecodedOperation_wait :
    let s := { run with pending := some .waitVsync }
    s.pending = some .waitVsync ∧ s.irqMasked = false ∧ s.agenda = []
      ∧ ({ s with agenda := [.host, .reset] }).agenda = .host :: [.reset] := by decide +kernel

theorem witness_IllegalWordIgnored :
    let s := presenting 0x0A01000000000003 [] run
    let s' := presenting 0x1000000000000000 [] run
    s.agenda = [] ∧ s.pending = none ∧ s.irqMasked = false ∧ s.cmd = [0x0A01000000000003]
      ∧ fieldZ 0x0A01000000000003 ≠ 0
      ∧ s'.agenda = [] ∧ s'.pending = none ∧ s'.irqMasked = false ∧ s'.cmd = [0x1000000000000000]
      ∧ 0x10 ≤ (fieldOp 0x1000000000000000).toNat := by decide +kernel

theorem witness_RefusedCases :
    let masked := presenting 0x0000000000000000 [] { run with flags := 4 }
    let odd := { lineActive with dma0 := { lineActive.dma0 with saddr := 0x20200002 } }
    let ragged := { lineActive with mode := { run.mode with stride := 13 } }
    run.idle = false
      ∧ masked.agenda = [] ∧ masked.pending = none ∧ masked.irqMasked = true ∧ masked.cmd = [0]
      ∧ (odd.chan .primary).erq = true ∧ 0 < (odd.chan .primary).rem.toNat ∧ odd.granular = true
      ∧ 1 < (odd.chan .primary).beat.toNat
      ∧ (odd.chan .primary).saddr.toNat % (odd.chan .primary).beat.toNat ≠ 0
      ∧ (ragged.chan .secondary).erq = true ∧ 0 < (ragged.chan .secondary).rem.toNat
      ∧ ragged.mode.stride.toNat % ragged.mode.gran.toNat ≠ 0 := by decide +kernel

theorem witness_RefusedCases_ragged :
    let ragged := { run with mode := { run.mode with stride := 13 } }
    let idle := { ragged with stateReg := 0 }
    let tick := pendingAt 3 ragged
    let line : Word := BitVec.ofNat 32 ((tick.line.toNat + 1) % tick.mode.totalLines.toNat)
    ragged.mode.gran ≠ 0 ∧ ragged.mode.stride.toNat % ragged.mode.gran.toNat ≠ 0
      ∧ idle.idle = true ∧ idle.fbValid = true ∧ idle.dma0.erq = false ∧ idle.dma1.erq = false
      ∧ tick.running = true ∧ tick.irq = true ∧ tick.irqMasked = false ∧ tick.quiet ∧ tick.mode.totalLines ≠ 0
      ∧ tick.mode.topBlank.toNat ≤ line.toNat
      ∧ (line.toNat - tick.mode.topBlank.toNat) / (if tick.mode.ld then 2 else 1) = 3
      ∧ 3 < tick.mode.height.toNat := by
  refine ⟨?_, ?_, ?_, ?_, ?_, ?_, ?_, ?_, ?_, rfl, ?_, ?_, ?_, ?_⟩ <;> decide +kernel

theorem witness_ResetEvent :
    let tick := { pendingAt 5 run with gaps := [[.reset, .tmrStep], [.pllLock]] }
    let begin := { State.reset with gaps := [[.reset, .tmrStep], [.pllLock]] }
    ({ dirty with agenda := [.reset, .host] }).agenda = .reset :: [.host]
      ∧ tick.gaps = (.reset :: [.tmrStep]) :: [[.pllLock]] ∧ tick.running = true ∧ tick.irq = true
      ∧ tick.irqMasked = false ∧ tick.mode.totalLines ≠ 0
      ∧ begin.gaps = (.reset :: [.tmrStep]) :: [[.pllLock]] ∧ begin.idle = true
      ∧ resolveMode cfgT 5 = some tinyMode ∧ clockTarget cfgT tinyMode < 2 ^ 32 := by decide +kernel

theorem witness_PinsFollowRegisters : ∃ t, step (agentNext 0x4900000000000000 run) = .next t :=
  exists_next (by decide +kernel)

theorem witness_StepKeepsMemoryCanonical :
    memoryCanonical (agentNext 0x5000000020200003 dirty) ∧ ∃ t, step (agentNext 0x5000000020200003 dirty) = .next t := by
  refine ⟨?_, exists_next (by decide +kernel)⟩
  unfold memoryCanonical Memory.wf
  decide +kernel

theorem witness_StepKeepsReservedZero :
    let s := agentNext 0x4A00000000000000 (pendingAt 5 run)
    reservedZero s ∧ ∃ t, step s = .next t := by
  refine ⟨?_, exists_next (by decide +kernel)⟩
  unfold reservedZero
  decide +kernel

theorem witness_StepKeepsModeLegal :
    let s := agentNext 0x4A00000000000000 (pendingAt 5 { run with mode := { run.mode with modeId := 0 } })
    legalController s ∧ modeLegal Config.chip s ∧ lineInRange s ∧ s.running = true ∧ ∃ t, step s = .next t := by
  refine ⟨?_, ?_, ?_, by decide +kernel, exists_next (by decide +kernel)⟩
  · unfold legalController; decide +kernel
  · intro _
    have h : (0 : Nat) ≤ Config.chip.shiftMax := Nat.zero_le _
    obtain ⟨shift0, topBlank, he⟩ := Config.chip_legal.mode0
    exact ⟨⟨0, by decide +kernel, by rw [he]; rfl⟩, by decide +kernel, by decide +kernel, by decide +kernel,
      by decide +kernel, by decide +kernel, by decide +kernel, by decide +kernel, h, by decide +kernel,
      by decide +kernel, by decide +kernel⟩
  · unfold lineInRange; decide +kernel

theorem witness_StepKeepsRanges :
    let s := agentNext 0x4F00000000000000 { run with pll := Pll.off, fb := { run.fb with base := 0 } }
    shiftInRange Config.chip s ∧ pllLegal Config.chip s ∧ bufferLegal Config.chip s ∧ s.fbValid = true
      ∧ ∃ t, step s = .next t := by
  refine ⟨Nat.zero_le _, ⟨by decide +kernel, fun h => absurd h (by decide +kernel)⟩, fun _ => ⟨Nat.zero_mod _, ?_⟩,
    by decide +kernel, exists_next (by decide +kernel)⟩
  decide +kernel

theorem witness_StepKeepsSyncAndBlack :
    let s := agentNext 0x4A00000000000000 (pendingAt 5 run)
    syncFlagsAgree s ∧ idleIsBlack s ∧ s.frmActive = false ∧ ∃ t, step s = .next t := by
  refine ⟨?_, ?_, by decide +kernel, exists_next (by decide +kernel)⟩
  · unfold syncFlagsAgree; decide +kernel
  · unfold idleIsBlack; decide +kernel

theorem witness_OnlyNamedOperationsWriteRegisters :
    let s := { pendingAt 5 run with gaps := [[.tmrStep], [], [.shiftOut, .pllLock]] }
    s.noReset ∧ ∃ t, exec .lineTick s = .next t := by
  refine ⟨?_, exists_next (by decide +kernel)⟩
  unfold State.noReset
  decide +kernel

theorem witness_OnlyHostWritesPixels :
    let s := { dirty with gaps := [[.cacheEvict 0x2020004F]] }
    s.noReset ∧ ∃ t, exec (.cacheFlush 80 0x20200000) s = .next t := by
  refine ⟨?_, exists_next (by decide +kernel)⟩
  unfold State.noReset
  decide +kernel

theorem witness_ModeResolveResult :
    cfgT.modeTable 9 = none ∧ cfgT.modeTable 2 = some (entry 512 240 true false 13 10 4)
      ∧ 36 = cfgT.backporchPix * 10 / 13 ∧ 12 = cfgT.frontporchPix * 10 / 13 := by decide +kernel

theorem witness_ResolvedModeIsLegal :
    cfgT.Legal ∧ resolveMode cfgT 5 = some tinyMode ∧ tinyMode.clkdivN < 2 ^ 32 ∧ tinyMode.clkdivD < 2 ^ 32
      ∧ tinyMode.totalLines < 2 ^ 32 ∧ tinyMode.topBlank + tinyMode.height * 1 < 2 ^ 32 :=
  ⟨witness_cfgT_legal, by decide +kernel, by decide, by decide, by decide, by decide⟩

theorem witness_ReferenceMode : cfgT.Legal ∧ ∃ m, resolveMode cfgT 0 = some m :=
  ⟨witness_cfgT_legal, Option.isSome_iff_exists.mp (by decide +kernel)⟩

theorem witness_ClockSearchMinimises :
    cfgT.Legal ∧ cfgT.divMin ≤ 60 ∧ 60 ≤ cfgT.divMax ∧ 9999 < cfgT.denom0 ∧ cfgT.divMin ≤ 10 ∧ 0 < cfgT.denom0 :=
  ⟨witness_cfgT_legal, by decide, by decide, by decide, by decide, by decide⟩

theorem witness_ClkProgramResult : State.reset.idle = true ∧ State.reset.quiet := ⟨by decide +kernel, rfl⟩

theorem witness_TweakResult : State.reset.running = false ∧ l1.running = true := by decide +kernel

theorem witness_DmaConfigureResult :
    let s := { run with stateReg := 0, shift := 15 }
    s.idle = true ∧ s.mode.gran ≠ 0 ∧ s.fbValid = true ∧ s.dma0.erq = false ∧ s.dma1.erq = false
      ∧ s.mode.stride.toNat % s.mode.gran.toNat = 0 ∧ s.quiet ∧ run.idle = false ∧ State.reset.mode.gran = 0
      ∧ lineActive.dma0.erq = true ∧ lineActive.dma1.erq = true ∧ State.reset.fbValid = false := by
  refine ⟨?_, ?_, ?_, ?_, ?_, ?_, rfl, ?_, ?_, ?_, ?_, ?_⟩ <;> decide +kernel

theorem witness_DmaEnableResult : lineActive.running = true ∧ lineActive.quiet ∧ State.reset.running = false :=
  ⟨by decide +kernel, rfl, by decide +kernel⟩

theorem witness_DmaReprogramResult :
    run.mode.gran ≠ 0 ∧ run.mode.stride.toNat % run.mode.gran.toNat = 0 ∧ run.quiet ∧ State.reset.mode.gran = 0 :=
  ⟨by decide +kernel, by decide +kernel, rfl, by decide +kernel⟩

/-- R79, R317: in an overrun channel 1 takes no beat of the old size at the new address; it takes one after BEAT[1]. -/
theorem test_reprogram_overrun :
    let s := { lineActive with shift := 5 }
    let t := after (dmaReprogram cfgT 0x20200000 { s with gaps := [[], [.dmaBeat .secondary]] })
    let u := after (dmaReprogram cfgT 0x20200000 { s with gaps := [[], [], [.dmaBeat .secondary]] })
    (t.dma1.saddr, t.dma1.beat, t.stream1.length) = (0x20200005, 1, 0)
      ∧ (u.dma1.saddr, u.dma1.beat, u.stream1.length) = (0x20200006, 1, 1) := by decide +kernel

theorem witness_ReprogramAddressesDiffer :
    let s :=
      { lineActive with
        shift := 5, dma0 := run.dma0, gaps := [[.tmrStep, .dmaBeat .primary], [], [.cacheEvict 3, .pllLock]] }
    s.mode.gran ≠ 0 ∧ s.noReset ∧ (∀ ts ∈ s.gaps, ∀ c, Turn.dmaBeat c ∈ ts → (s.chan c).erq = false)
      ∧ ∃ t, exec (.dmaReprogram 0x2020000C) s = .next t := by
  refine ⟨by decide +kernel, ?_, ?_, ⟨_, rfl⟩⟩
  · unfold State.noReset; decide +kernel
  · intro ts hts c
    cases c
    · exact fun _ => by decide +kernel
    · exact fun h => absurd h (by revert ts; decide)

theorem witness_ReprogramAddressesDiffer_done :
    let s := { lineActive with gaps := [[.dmaBeat .secondary, .dmaBeat .secondary]] }
    let beats := List.replicate 3 Channel.primary ++ List.replicate 3 Channel.secondary
    s.noReset ∧ AtLineStart s .primary ∧ AtLineStart s .secondary ∧ s.dma1.saddr - s.dma0.saddr = s.shift
      ∧ ∃ t, runBeats beats s = .next t ∧ t.dma0.done = true ∧ t.dma1.done = true := by
  refine ⟨?_, ?_, ?_, by decide +kernel, _, next_after (by decide +kernel), by decide +kernel, by decide +kernel⟩
  · unfold State.noReset; decide +kernel
  · constructor <;> decide +kernel
  · constructor <;> decide +kernel

theorem witness_DmaBeatResult :
    (((lineActive.chan .primary).erq = true ∧ 0 < (lineActive.chan .primary).rem.toNat) ∧ lineActive.granular = true
      ∧ (lineActive.chan .primary).saddr.toNat % (lineActive.chan .primary).beat.toNat = 0 ∧ lineActive.quiet)
    ∧ ¬ ((run.chan .secondary).erq = true ∧ 0 < (run.chan .secondary).rem.toNat) :=
  ⟨⟨by decide +kernel, by decide +kernel, by decide +kernel, rfl⟩, by decide +kernel⟩

theorem witness_LineOfBeats :
    let s := lineActive
    let d := s.chan .secondary
    d.erq = true ∧ d.dreq = true ∧ 0 < d.count.toNat ∧ d.rem = d.count ∧ 0 < d.beat.toNat
      ∧ d.beat.toNat * d.count.toNat = s.mode.stride.toNat ∧ d.slast = 0 - s.mode.stride
      ∧ d.saddr.toNat % d.beat.toNat = 0 ∧ s.granular = true
      ∧ (∀ i, i < s.mode.stride.toNat → s.inFrameBuffer (d.saddr.toNat + i) = true) ∧ s.quiet := by
  refine ⟨?_, ?_, ?_, ?_, ?_, ?_, ?_, ?_, ?_, ?_, rfl⟩ <;> decide +kernel

theorem witness_AccessesInsideBuffer :
    cfgT.Legal ∧ run.running = true ∧ modeLegal cfgT run ∧ shiftInRange cfgT run ∧ bufferCovers cfgT run
      ∧ run.pixelInRange 7 3 := by
  refine ⟨witness_cfgT_legal, by decide +kernel, ?_, ?_, ?_, ?_⟩
  · exact fun _ => ⟨⟨5, by decide +kernel, rfl⟩, by decide +kernel⟩
  · unfold shiftInRange; decide +kernel
  · unfold bufferCovers; decide +kernel
  · unfold State.pixelInRange; decide +kernel

theorem witness_LineOfColours :
    let s := { lineActive with stream0 := List.replicate 12 0x5A, stream1 := List.replicate 12 0xA5 }
    s.frmActive = true ∧ s.frmCorrupt = false ∧ s.frm.px = 0
      ∧ s.mode.stride.toNat + cfgT.skew s.mode.modeId.toNat < 2 ^ 32
      ∧ s.stream0.length = s.mode.stride.toNat ∧ s.stream1.length = s.mode.stride.toNat := by decide +kernel

theorem witness_HsyncWaveform :
    run.tmrRun = true ∧ run.tmrPhase = false ∧ run.tmr.cnt = 0 ∧ run.tmrOut = false ∧ 1 ≤ run.tmr.cmp1.toNat
      ∧ 1 ≤ run.tmr.cmp2.toNat := by decide +kernel

theorem witness_BlankingTickResult :
    let s := pendingAt 5 run
    let line : Word := BitVec.ofNat 32 ((s.line.toNat + 1) % s.mode.totalLines.toNat)
    s.running = true ∧ s.irq = true ∧ s.irqMasked = false ∧ s.quiet ∧ s.mode.totalLines ≠ 0
      ∧ (∀ row : Nat, row < s.mode.height.toNat →
          ¬ (s.mode.topBlank.toNat ≤ line.toNat
              ∧ (line.toNat - s.mode.topBlank.toNat) / (if s.mode.ld then 2 else 1) = row))
      ∧ State.reset.running = false ∧ run.tcf1 = false ∧ State.reset.tmrIe = false
      ∧ ({ run with flags := 4 }).irqMasked = true := by
  refine ⟨?_, ?_, ?_, rfl, ?_, ?_, ?_, ?_, ?_, ?_⟩ <;> decide +kernel

theorem witness_VisibleTickResult :
    let s := pendingAt 3 dirty
    let line : Word := BitVec.ofNat 32 ((s.line.toNat + 1) % s.mode.totalLines.toNat)
    s.running = true ∧ s.irq = true ∧ s.irqMasked = false ∧ s.quiet ∧ s.mode.totalLines ≠ 0 ∧ s.granular = true
      ∧ s.mode.topBlank.toNat ≤ line.toNat
      ∧ (line.toNat - s.mode.topBlank.toNat) / (if s.mode.ld then 2 else 1) = 3 ∧ 3 < s.mode.height.toNat := by
  refine ⟨?_, ?_, ?_, rfl, ?_, ?_, ?_, ?_, ?_⟩ <;> decide +kernel

theorem witness_TickAdvancesLine :
    let s := { pendingAt 4 dirty with gaps := [[.tmrStep], [.shiftOut]] }
    s.noReset ∧ s.running = true ∧ s.irq = true ∧ s.irqMasked = false ∧ ∃ t, exec .lineTick s = .next t := by
  refine ⟨?_, by decide +kernel, by decide +kernel, by decide +kernel, exists_next (by decide +kernel)⟩
  unfold State.noReset
  decide +kernel

theorem witness_TicksCountLines :
    run.running = true ∧ run.tmrIe = true ∧ run.irqMasked = false ∧ run.quiet ∧ run.granular = true
      ∧ run.line.toNat < run.mode.totalLines.toNat ∧ 0 < 6 := by
  refine ⟨?_, ?_, ?_, rfl, ?_, ?_, ?_⟩ <;> decide +kernel

theorem witness_VisibleRowMapping :
    let s := { run with mode := { run.mode with mflags := 1 } }
    ({ run with line := 4 }).visibleRow = some 3 ∧ ({ run with line := 5 }).visibleRow = none ∧ s.mode.ld = true ∧ 3 < s.mode.height.toNat ∧ (7 : Word).toNat = s.mode.topBlank.toNat + 2 * 3
      ∧ (8 : Word).toNat = s.mode.topBlank.toNat + 2 * 3 + 1 := by decide +kernel

theorem witness_WaitsHold :
    ({ run with flags := 3 }).frameStart = true ∧ run.frameStart = false ∧ run.line.toNat = (0 : Half).toNat
      ∧ run.line.toNat ≠ (65535 : Half).toNat
      ∧ ({ run with pending := some .waitVsync }).agenda = [] ∧ run.irqMasked = false
      ∧ ({ run with pending := some .waitVsync, agenda := [.host, .reset] }).agenda = .host :: [.reset]
      ∧ ({ run with pending := some (.waitLine 2) }).pending = some (.waitLine 2) := by decide +kernel

theorem witness_RdregResult : reservedZero l1 ∧ (0x05 : Byte) ∉ ([0x00, 0x01, 0x02, 0x03, 0x04, 0x72] : List Byte) := by
  refine ⟨?_, by decide⟩
  unfold reservedZero
  decide +kernel

theorem witness_registers_at_reset : RegistersAtReset State.reset :=
  { stateReg := rfl, line := rfl, flags := rfl, mode := rfl, shift := rfl, pll := rfl, tmr := rfl, dma0 := rfl
    dma1 := rfl, fb := rfl, frm := rfl, stream0 := rfl, stream1 := rfl }

theorem witness_BeginCompletes : State.reset.idle = true ∧ State.reset.fbValid = false ∧ State.reset.quiet :=
  ⟨by decide +kernel, by decide +kernel, rfl⟩

theorem witness_BeginSuccess :
    cfgT.Legal ∧ RegistersAtReset State.reset ∧ State.reset.quiet ∧ resolveMode cfgT 5 = some tinyMode
      ∧ clockTarget cfgT tinyMode < 2 ^ 32 ∧ cfgT.lockOk State.reset.draws = true
      ∧ cfgT.allocDraw (State.reset.draws + 1) (tinyMode.stride * tinyMode.height + cfgT.fbPad)
          = some 0x20200000 :=
  ⟨witness_cfgT_legal, witness_registers_at_reset, rfl, by decide +kernel, by decide +kernel, by decide +kernel,
    by decide +kernel⟩

theorem witness_BeginFailureLeavesNothing :
    cfgT.Legal ∧ RegistersAtReset State.reset ∧ State.reset.quiet ∧ beginCode cfgT 9 State.reset ≠ codeOk
      ∧ ∃ t, beginMode cfgT 9 State.reset = .next t :=
  ⟨witness_cfgT_legal, witness_registers_at_reset, rfl, by decide +kernel, exists_next (by decide +kernel)⟩

theorem witness_BeginFailureLeavesNothing_any :
    let C := { cfgT with lockOk := fun _ => false, lockTimeout := 2 }
    let s := { State.reset with gaps := [[.tmrStep], [.pllLock], [.shiftOut]] }
    RegistersAtReset s ∧ s.noReset ∧ ∃ t, beginMode C 5 s = .next t ∧ t.running = false := by
  refine ⟨⟨rfl, rfl, rfl, rfl, rfl, rfl, rfl, rfl, rfl, rfl, rfl, rfl, rfl⟩, ?_, _, next_after (by decide +kernel),
    by decide +kernel⟩
  unfold State.noReset
  decide +kernel

theorem witness_EndResult : State.reset.idle = true ∧ lineActive.idle = false ∧ lineActive.quiet ∧ reservedZero lineActive := by
  refine ⟨by decide +kernel, by decide +kernel, rfl, ?_⟩
  unfold reservedZero
  decide +kernel

theorem witness_EndLeavesResetValues :
    let s := { lineActive with gaps := [[.tmrStep, .dmaBeat .secondary], [.shiftOut]] }
    reservedZero s ∧ s.idle = false ∧ s.noReset ∧ ∃ t, exec .endMode s = .next t := by
  refine ⟨?_, by decide +kernel, ?_, ⟨_, rfl⟩⟩
  · unfold reservedZero; decide +kernel
  · unfold State.noReset; decide +kernel

theorem witness_NoAgentButCacheEnabledAfterReset :
    RegistersAtReset State.reset ∧ memGet State.reset.cache (3 : Word).toNat = none :=
  ⟨witness_registers_at_reset, by decide⟩

theorem witness_RowPointerResult : run.rowInRange 0 ∧ run.rowInRange 3 ∧ ¬ run.rowInRange 4 ∧ ¬ run.rowInRange (-1) := by
  unfold State.rowInRange
  decide +kernel

theorem witness_GetPixelResult :
    run.pixelInRange 7 3 ∧ run.inFrameBuffer (0x20200000 + 3 + 12 * 3 + 7) = true
      ∧ ({ run with fb := { run.fb with size := 46 } }).pixelInRange 7 3
      ∧ ({ run with fb := { run.fb with size := 46 } }).inFrameBuffer (0x20200000 + 3 + 12 * 3 + 7) = false
      ∧ ¬ run.pixelInRange 8 0 ∧ ¬ run.pixelInRange (-1) 0 ∧ ¬ run.pixelInRange 0 4 := by
  unfold State.pixelInRange
  decide +kernel

theorem witness_SetPixelResult :
    run.pixelInRange 0 0 ∧ run.inFrameBuffer (0x20200000 + 3 + 12 * 0 + 0) = true
      ∧ ({ run with fb := FrameBuffer.none }).pixelInRange 0 0
      ∧ ({ run with fb := FrameBuffer.none }).inFrameBuffer 3 = false ∧ ¬ run.pixelInRange 0 (-32768) := by
  unfold State.pixelInRange
  decide +kernel

theorem witness_RowWritersResult :
    ([1, 2, 3] : List Byte).length = (3 : Half).toNat ∧ ([4, 5, 6] : List Half).length = (3 : Half).toNat
      ∧ run.rowInRange 3 ∧ 1 ≤ (3 : Half).toNat
      ∧ (∀ k, k < run.mode.width.toNat → run.inFrameBuffer (0x20200000 + 3 + 12 * 3 + k) = true) ∧ run.quiet
      ∧ ¬ run.rowInRange 4 := by
  refine ⟨by decide, by decide, ?_, by decide, ?_, rfl, ?_⟩
  · unfold State.rowInRange; decide +kernel
  · decide +kernel
  · unfold State.rowInRange; decide +kernel

theorem witness_RowRoundTrip :
    let s := { run with gaps := [[.cacheEvict 0x20200003], [], [.cacheEvict 0x20200004]] }
    ([1, 2, 3, 4, 5, 6, 7, 8] : List Byte).length = (8 : Half).toNat ∧ (8 : Half).toNat = s.mode.width.toNat
      ∧ s.pixelInRange 7 0 ∧ s.noReset ∧ ∃ t, exec (.writeRowNative 0 8 [1, 2, 3, 4, 5, 6, 7, 8]) s = .next t := by
  refine ⟨by decide, by decide +kernel, ?_, ?_, ⟨_, rfl⟩⟩
  · unfold State.pixelInRange; decide +kernel
  · unfold State.noReset; decide +kernel

theorem witness_RawAccessResult :
    run.fbValid = true ∧ run.fb.base.toNat ≤ (0x2020004F : Word).toNat
      ∧ (0x2020004F : Word).toNat < run.fb.base.toNat + run.fb.size.toNat
      ∧ run.fb.base.toNat ≤ (0x20200000 : Word).toNat
      ∧ ¬ (0x20200050 : Word).toNat < run.fb.base.toNat + run.fb.size.toNat := by decide +kernel

theorem witness_AllocAndFreeResult :
    let s := { run with fb := FrameBuffer.none }
    s.fbValid = false ∧ s.mode.gran ≠ 0 ∧ run.fbValid = true ∧ State.reset.mode.gran = 0
      ∧ run.dma0.erq = false ∧ run.dma1.erq = false ∧ lineActive.dma0.erq = true ∧ lineActive.dma1.erq = true := by
  decide +kernel

theorem witness_CacheOperationsResult :
    dirty.quiet ∧ memGet dirty.cache (0x2020004F : Word).toNat = some 7 ∧ memGet dirty.cache (0x20200004 : Word).toNat = none :=
  ⟨rfl, by decide +kernel, by decide +kernel⟩

end Sys2Proof.Tests
end

section
/-! How a step goes through the schedule, HOST's move and the ports (spec/00_scope.md R7, R8): one equation per case of
`step`, `hostMove`, `takeCommand` and `agentMove` in which an operation is run, and O5 from them. -/

namespace Sys2Proof.Machine

/-! ## Whose move is next -/

theorem step_of_agenda_nil {s : State} (hagenda : s.agenda = []) : step s = hostMove s := by
  simp only [step, nextMove, hagenda]

theorem step_of_host_slot {s : State} {rest : List Slot} (hagenda : s.agenda = .host :: rest) :
    step s = hostMove { s with agenda := rest } := by
  simp only [step, nextMove, hagenda]

theorem step_of_agent_slot {s : State} {w : Command} {rest : List Slot} (hagenda : s.agenda = .agent w :: rest) :
    step s = agentMove w { s with agenda := rest } := by
  simp only [step, nextMove, hagenda]

/-! ## What a move runs -/

theorem agentMove_of_decodeInternal {w : Command} {i : Instr} (hdecode : decodeInternal w = .ok i) (s : State) :
    agentMove w s = exec i s := by
  simp only [agentMove, hdecode]

/-- R210: HOST held in a wait samples it again. -/
theorem hostMove_of_pending_some {s : State} {i : Instr} (hpending : s.pending = some i)
    (hmask : s.irqMasked = false) : hostMove s = exec i s := by
  simp [hostMove, hpending, hmask]

theorem hostMove_of_pending_none {s : State} (hpending : s.pending = none) : hostMove s = takeCommand s := by
  simp only [hostMove, hpending]

/-- R100: the word and its payload are gone from the ports when the operation runs. -/
theorem takeCommand_of_decodeHost {s : State} {w : Command} {ws : List Command} {i : Instr} {data : List Half}
    (hmask : s.irqMasked = false) (hcmd : s.cmd = w :: ws) (hdecode : decodeHost w s.data = .ok (i, data)) :
    takeCommand s = exec i { s with cmd := ws, data := data } := by
  simp [takeCommand, hmask, hcmd, hdecode]

/-- A move of HOST that is held in no wait and not masked runs the operation of the word at the head of the CMD port. -/
theorem hostMove_of_decodeHost {s : State} {w : Command} {ws : List Command} {i : Instr} {data : List Half}
    (hpending : s.pending = none) (hmask : s.irqMasked = false) (hcmd : s.cmd = w :: ws)
    (hdecode : decodeHost w s.data = .ok (i, data)) :
    hostMove s = exec i { s with cmd := ws, data := data } :=
  (hostMove_of_pending_none hpending).trans (takeCommand_of_decodeHost hmask hcmd hdecode)

/-! ## The step -/

/-- Settles O5: a step is the move of the schedule's head, or of HOST where the schedule ends, and each such move runs the
operation its word, or the wait, stands for. HOST's slot changes the agenda alone, which HOST's move does not read. -/
theorem stepRunsDecodedOperation : Obligations.StepRunsDecodedOperation := by
  unfold Obligations.StepRunsDecodedOperation
  refine ⟨?hostWord, ?agentWord, ?heldWait⟩
  case hostWord =>
    intro s w ws i data hpending hmask hcmd hdecode
    constructor
    · intro hagenda
      rw [step_of_agenda_nil hagenda, hostMove_of_decodeHost hpending hmask hcmd hdecode]
    · intro rest hagenda
      rw [step_of_host_slot hagenda]
      exact hostMove_of_decodeHost hpending hmask hcmd hdecode
  case agentWord =>
    intro s w i rest hagenda hdecode
    rw [step_of_agent_slot hagenda, agentMove_of_decodeInternal hdecode]
  case heldWait =>
    intro s i hpending hmask
    constructor
    · intro hagenda
      rw [step_of_agenda_nil hagenda, hostMove_of_pending_some hpending hmask]
    · intro rest hagenda
      rw [step_of_host_slot hagenda]
      exact hostMove_of_pending_some hpending hmask

end Sys2Proof.Machine
end

section
/-! What the operations write, said once. `RegisterWrite` lists the indivisible register writes of the operations by
the part of an operation that makes them (`WriteClass`), `writeClasses` says which parts each operation has, and
`exec_keeps` derives from the two what every operation keeps, whatever the schedule does in its gaps (R8, R317). The
part lemmas (`WriteRel.reprogram`, `WriteRel.beginWith`, …) say the same of the sub-operations. -/

namespace Sys2Proof.Machine

/-! ## The parts of operations that write registers -/

/-- Which part of an operation a write belongs to. The steps of the autonomous agents are no part: they stand in
`AgentRel`. -/
inductive WriteClass where
  | answer | frameSize | wait | tweak | clock | descriptors | arm | disarm | mask | tick | store | allocate | release
  | load | start | pllOff | rollback | stop

/-- The indivisible register writes of the operations, as the model's own names for them make them. -/
inductive RegisterWrite (C : Config) : WriteClass → State → State → Prop where
  | result0 (s : State) (v : Word) : RegisterWrite C .answer s { s with result0 := v }
  | frameSize (s : State) :
      RegisterWrite C .frameSize s { s with result0 := s.mode.width, result1 := s.mode.height }
  | pending (s : State) (p : Option Instr) : RegisterWrite C .wait s { s with pending := p }
  | tweakShift (s : State) (delta : Half) : RegisterWrite C .tweak s (tweakShift C delta s)
  | tweakClock (s : State) (num denom : Half) : RegisterWrite C .tweak s (tweakClock num denom s)
  | program (s : State) (p : Pll) (hctrl : p.ctrl = s.pll.ctrl) : RegisterWrite C .clock s { s with pll := p }
  | pllLock (s : State) (v : Bool) : RegisterWrite C .clock s (s.setPllLock v)
  | pllEnable (s : State) (v : Bool) : RegisterWrite C .clock s (s.setPllEnable v)
  | geometry (s : State) (c : Channel) (d : Descriptor) (hdcsr : d.dcsr = (s.chan c).dcsr) :
      RegisterWrite C .descriptors s (s.setChan c d)
  | control (s : State) (c : Channel) (i : Nat) (v : Bool) (hi : i < 3) :
      RegisterWrite C .descriptors s (s.setChan c { s.chan c with dcsr := setFlag (s.chan c).dcsr i v })
  | unaligned (s : State) (v : Bool) : RegisterWrite C .descriptors s (s.setFlags unalignedBit v)
  | stream (s : State) (c : Channel) : RegisterWrite C .arm s (s.setStream c [])
  | px (s : State) : RegisterWrite C .arm s { s with frm := { s.frm with px := 0 } }
  | corrupt (s : State) (v : Bool) : RegisterWrite C .arm s { s with frm := s.frm.setCorrupt v }
  | active (s : State) : RegisterWrite C .arm s { s with frm := s.frm.setActive true }
  | disarm (s : State) : RegisterWrite C .disarm s (disarm s)
  | mask (s : State) (v : Bool) : RegisterWrite C .mask s (s.setFlags irqMaskBit v)
  | compareFlags (s : State) : RegisterWrite C .tick s (clearCompareFlags s)
  | line (s : State) : RegisterWrite C .tick s (advanceLine s)
  | frameStart (s : State) : RegisterWrite C .tick s (markFrameStart s)
  | store (s : State) (a : Nat) (v : Byte) (hin : s.inFrameBuffer a = true) :
      RegisterWrite C .store s { s with cache := memSet s.cache a v }
  | allocate (s : State) : RegisterWrite C .allocate s (allocate C s)
  | release (s : State) : RegisterWrite C .release s (release s)
  | load (s : State) (mode : Byte) (m : ResolvedMode) (hm : resolveMode C mode = some m) :
      RegisterWrite C .load s (loadMode C m s)
  | startTimer (s : State) : RegisterWrite C .start s (startTimer C s)
  | ok (s : State) : RegisterWrite C .start s (report codeOk s)
  | pllOff (s : State) : RegisterWrite C .pllOff s (pllOff s)
  | clearMode (s : State) : RegisterWrite C .rollback s (clearMode s)
  | clearDescriptors (s : State) : RegisterWrite C .rollback s (clearDescriptors s)
  | failure (s : State) (code : Word) : RegisterWrite C .rollback s (reportFailure code s)
  | stopTimer (s : State) : RegisterWrite C .stop s (stopTimer s)
  | clearRegisters (s : State) : RegisterWrite C .stop s (clearRegisters s)
  | enterIdle (s : State) : RegisterWrite C .stop s (enterIdle s)

/-- The parts of a failing BEGIN's rollback and report (R222). -/
@[simp] def failClasses : List WriteClass := [.disarm, .pllOff, .release, .rollback]

/-- The parts of BEGIN after a granted allocation (R221 steps 5 to 8). -/
@[simp] def finishClasses : List WriteClass := [.store, .descriptors, .start]

/-- The parts of BEGIN after a successful CLK_PROGRAM. -/
@[simp] def bufferClasses : List WriteClass := .allocate :: (finishClasses ++ failClasses)

/-- The parts of each operation. -/
@[simp] def writeClasses : Instr → List WriteClass
  | .nop | .modeResolve _ | .pllLock | .dmaBeat _ | .shiftOut | .tmrStep | .cacheFlush _ _ | .cacheEvict _ => []
  | .beginMode _ => .load :: .clock :: bufferClasses
  | .endMode => [.disarm, .pllOff, .release, .stop]
  | .tweak _ _ _ => [.tweak]
  | .waitVsync | .waitLine _ => [.wait]
  | .frameSize => [.frameSize]
  | .rowPointer _ | .getPixel _ _ | .fbLoad _ | .rdreg _ => [.answer]
  | .setPixel _ _ _ | .writeRowNative _ _ _ | .writeRowPal8 _ _ _ | .writeRowRgb565 _ _ _ | .fbStore _ _ => [.store]
  | .clkProgram _ => [.clock]
  | .dmaConfigure | .dmaReprogram _ => [.descriptors]
  | .dmaEnable => [.descriptors, .arm]
  | .dmaDisable => [.disarm]
  | .lineTick => [.mask, .tick, .descriptors, .arm]
  | .irqMask | .irqUnmask => [.mask]
  | .fbAlloc => [.allocate]
  | .fbFree => [.release]

/-! ## What the updates with branches can do -/

/-- R150: the shift half of TWEAK is dropped, or leaves SHIFT in its range. -/
theorem tweakShift_cases (C : Config) (delta : Half) (s : State) :
    tweakShift C delta s = s ∨ ∃ v : Word, v.toNat ≤ C.shiftMax ∧ tweakShift C delta s = { s with shift := v } := by
  simp only [tweakShift]
  split
  · rename_i hrange
    refine .inr ⟨_, ?_, rfl⟩
    rw [BitVec.toNat_ofInt]
    omega
  · exact .inl rfl

/-- R150: the clock half of TWEAK is dropped, or leaves NUM below DENOM. -/
theorem tweakClock_cases (numDelta denomDelta : Half) (s : State) :
    tweakClock numDelta denomDelta s = s
    ∨ ∃ num denom : Word, num.toNat < denom.toNat
        ∧ tweakClock numDelta denomDelta s = { s with pll := { s.pll with denom := denom, num := num } } := by
  simp only [tweakClock]
  split
  · rename_i hrange
    refine .inr ⟨_, _, ?_, rfl⟩
    rw [BitVec.toNat_ofInt, BitVec.toNat_ofInt]
    omega
  · exact .inl rfl

/-- R237: an allocation takes a draw; where it is granted, the address is aligned and the buffer fits below 2^32. -/
theorem allocate_cases (C : Config) (s : State) :
    allocate C s = { s with draws := s.draws + 1 }
    ∨ ∃ a, a % C.fbAlign = 0 ∧ a + fbBytes C s ≤ 2 ^ 32 ∧ allocate C s =
        { s with
          fb := { base := BitVec.ofNat 32 a, size := BitVec.ofNat 32 (fbBytes C s), ctrl := setFlag s.fb.ctrl 0 true }
          mem := memEraseRange s.mem a (fbBytes C s)
          epoch := s.epoch + 1
          draws := s.draws + 1 } := by
  simp only [allocate]
  split
  · exact .inl rfl
  · rename_i a hdraw
    obtain ⟨halign, hfit⟩ := Config.allocDraw_law hdraw
    exact .inr ⟨a, halign, hfit, rfl⟩

/-- No write touches the schedule of the gaps. -/
theorem RegisterWrite.gaps {C : Config} {k : WriteClass} {s t : State} (h : RegisterWrite C k s t) :
    t.gaps = s.gaps := by
  cases h with
  | tweakShift _ delta => rcases tweakShift_cases C delta s with e | ⟨v, -, e⟩ <;> rw [e]
  | tweakClock _ num denom => rcases tweakClock_cases num denom s with e | ⟨n, d, -, e⟩ <;> rw [e]
  | allocate => rcases allocate_cases C s with e | ⟨a, -, -, e⟩ <;> rw [e]
  | geometry _ c d hdcsr => exact State.setChan_gaps s c d
  | control _ c i v hi => exact State.setChan_gaps s c _
  | stream _ c => exact State.setStream_gaps s c _
  | _ => rfl

/-! ## What a part that keeps a relation answers -/

/-- `r`, begun in `s`, keeps to `R` (`Keeps`), and without a RESET event in the gaps it is not abandoned (`Orderly`). -/
structure Performs {α : Type} (R : State → State → Prop) (state : α → State) (s : State) (r : Flow α) : Prop where
  keeps : Keeps R state s r
  orderly : s.noReset → (∀ t, r ≠ .abandoned t) ∧ ∀ a, r = .next a → (state a).noReset

/-- A relation that the agents' steps and the writes of the parts `ks` keep. -/
structure WriteRel (C : Config) (ks : List WriteClass) (R : State → State → Prop) : Prop where
  agents : AgentRel C R
  writes : ∀ {k s t}, k ∈ ks → RegisterWrite C k s t → R s t

section
variable {C : Config} {ks : List WriteClass} {R : State → State → Prop}

theorem Performs.refused {α : Type} {state : α → State} {s : State} (e : Refusal) :
    Performs R state s (.refused e : Flow α) :=
  ⟨trivial, fun _ => ⟨nofun, nofun⟩⟩

/-- What goes on with a state related to `s`, the schedule untouched. -/
theorem Performs.next {α : Type} {state : α → State} {s : State} {a : α} (hR : R s (state a))
    (hgaps : (state a).gaps = s.gaps) : Performs R state s (.next a) := by
  refine ⟨hR, fun hs => ⟨nofun, fun b e => ?_⟩⟩
  cases e
  exact State.noReset_of_suffix (by rw [hgaps]) hs

variable (h : WriteRel C ks R)
include h

theorem WriteRel.trans {s t u : State} (hst : R s t) (htu : R t u) : R s u := h.agents.trans s t u hst htu

theorem WriteRel.andThen {α β : Type} {p : α → State} {q : β → State} {s : State} {r : Flow α} {f : α → Flow β}
    (hr : Performs R p s r) (hf : ∀ a, r = .next a → Performs R q (p a) (f a)) : Performs R q s (andThen r f) := by
  refine ⟨hr.keeps.andThen h.agents.trans fun a e => (hf a e).keeps, fun hs => ⟨fun t e => ?_, fun b e => ?_⟩⟩
  · rcases andThen_eq_abandoned e with e | ⟨a, ea, e⟩
    · exact (hr.orderly hs).1 t e
    · exact ((hf a ea).orderly ((hr.orderly hs).2 a ea)).1 t e
  · obtain ⟨a, ea, e⟩ := andThen_eq_next e
    exact ((hf a ea).orderly ((hr.orderly hs).2 a ea)).2 b e

/-- A part that begins with a write. -/
theorem WriteRel.after {α : Type} {p : α → State} {k : WriteClass} {s t : State} {r : Flow α} (hk : k ∈ ks)
    (hw : RegisterWrite C k s t) (hr : Performs R p t r) : Performs R p s r :=
  h.andThen (r := .next ()) (p := fun _ => t) (f := fun _ => r) (.next (h.writes hk hw) hw.gaps) fun _ _ => hr

theorem WriteRel.assign {k : WriteClass} {s t : State} (hk : k ∈ ks) (hw : RegisterWrite C k s t) :
    Performs R id s (.next t) := .next (h.writes hk hw) hw.gaps

theorem WriteRel.stay (s : State) : Performs R id s (.next s) := .next (h.agents.refl s) rfl

theorem WriteRel.gapWithout (held : Option Channel) (s : State) : Performs R id s (gapWithout C held s) :=
  ⟨h.agents.gapWithout held s, gapWithout_orderly C held s⟩

theorem WriteRel.gap (s : State) : Performs R id s (gap C s) := h.gapWithout none s

theorem WriteRel.flushRange (n a : Nat) (s : State) : Performs R id s (flushRange C n a s) :=
  ⟨h.agents.flushRange n a s, flushRange_orderly C n a s⟩

theorem WriteRel.pollLock (n : Nat) (s : State) : Performs R Prod.snd s (pollLock C n s) :=
  ⟨h.agents.pollLock n s, pollLock_orderly C n s⟩

theorem WriteRel.beat (c : Channel) (s : State) : Performs R id s (beat C c s) :=
  ⟨h.agents.beat c s, beat_orderly C c s⟩

/-- A relation that every sub-step keeps, the sequence keeps, whatever happens in its gaps. -/
theorem WriteRel.inOrder (fs : List (State → Flow State)) :
    (∀ f ∈ fs, ∀ s, Performs R id s (f s)) → ∀ s, Performs R id s (inOrder C fs s) := by
  induction fs with
  | nil => exact fun _ s => h.stay s
  | cons f fs ih =>
    intro hfs s
    rw [inOrder_cons]
    exact h.andThen (hfs f List.mem_cons_self s) fun s1 _ =>
      h.andThen (h.gap s1) fun s2 _ => ih (fun g hg => hfs g (List.mem_cons_of_mem _ hg)) s2

/-! ## The sub-operations -/

/-- CLK_PROGRAM's body (R143). -/
theorem WriteRel.programClock (hk : .clock ∈ ks) (target : Nat) (s : State) :
    Performs R Prod.snd s (programClock C target s) := by
  refine h.andThen (h.inOrder _ (fun f hf s => ?_) s) fun s1 _ => ?_
  · simp only [writeClockProgram, List.mem_cons, List.not_mem_nil, or_false] at hf
    rcases hf with rfl | rfl | rfl | rfl | rfl
    · exact h.assign hk (.pllLock s false)
    · exact h.assign hk (.program s _ rfl)
    · exact h.assign hk (.program s _ rfl)
    · exact h.assign hk (.program s _ rfl)
    · exact h.assign hk (.pllEnable s true)
  · have hdraw : Performs R id s1 (.next { s1 with draws := s1.draws + 1 }) := .next (h.agents.draw s1 _) rfl
    exact h.andThen (f := fun _ => Machine.pollLock C _ (drawLock C s1)) hdraw fun _ e => by
      cases e
      exact h.after hk (.pllLock _ (C.lockOk s1.draws || s1.pllLocked)) (h.pollLock _ _)

/-- R167's writes of SADDR[1] and BEAT[1]. -/
theorem WriteRel.readdressSecondary (hk : .descriptors ∈ ks) (p : Word) (s : State) :
    Performs R id s (readdressSecondary C p s) :=
  h.after hk (.geometry s .secondary { s.dma1 with saddr := p + s.shift } rfl) <|
    h.andThen (h.gapWithout _ _) fun t _ => h.assign hk (.geometry t .secondary { t.dma1 with beat := _ } rfl)

/-- DMA_REPROGRAM's body (R167). -/
theorem WriteRel.reprogram (hk : .descriptors ∈ ks) (p : Word) (s : State) : Performs R id s (reprogram C p s) := by
  simp only [Machine.reprogram]
  split
  · refine h.inOrder _ (fun f hf s => ?_) s
    simp only [reprogramWrites, List.mem_cons, List.not_mem_nil, or_false] at hf
    rcases hf with rfl | rfl | rfl | rfl | rfl
    · exact h.assign hk (.geometry s .primary { s.dma0 with saddr := p } rfl)
    · exact h.readdressSecondary hk p s
    · exact h.assign hk (.geometry s .secondary { s.dma1 with count := _ } rfl)
    · exact h.assign hk (.unaligned s _)
    · exact h.assign hk (.geometry s .secondary { s.dma1 with rem := _ } rfl)
  · exact .refused _

/-- What DMA_CONFIGURE writes to one channel (R163). -/
theorem WriteRel.configureChan (hk : .descriptors ∈ ks) (c : Channel) {f : State → Flow State}
    (hf : f ∈ configureChan c) (s : State) : Performs R id s (f s) := by
  simp only [Machine.configureChan, List.mem_cons, List.not_mem_nil, or_false] at hf
  rcases hf with rfl | rfl | rfl | rfl | rfl
  · exact h.assign hk (.geometry s c { s.chan c with daddr := _ } rfl)
  · exact h.assign hk (.geometry s c { s.chan c with slast := _ } rfl)
  · exact h.assign hk (.control s c 1 true (by decide))
  · exact h.assign hk (.control s c 0 false (by decide))
  · exact h.assign hk (.control s c 2 false (by decide))

/-- DMA_CONFIGURE's body (R163). -/
theorem WriteRel.configure (hk : .descriptors ∈ ks) (s : State) : Performs R id s (configure C s) := by
  simp only [Machine.configure]
  split
  · refine h.inOrder _ (fun f hf s => ?_) s
    simp only [List.mem_append, configurePrimary, List.mem_cons, List.not_mem_nil, or_false] at hf
    rcases hf with ((hf | hf) | rfl | rfl | rfl) | rfl
    · exact h.configureChan hk _ hf s
    · exact h.configureChan hk _ hf s
    · exact h.assign hk (.geometry s .primary { s.dma0 with beat := _ } rfl)
    · exact h.assign hk (.geometry s .primary { s.dma0 with count := _ } rfl)
    · exact h.assign hk (.geometry s .primary { s.dma0 with rem := _ } rfl)
    · exact h.reprogram hk _ s
  · exact .refused _

/-- DMA_ENABLE's body (R165). -/
theorem WriteRel.arm (hk : .descriptors ∈ ks) (ha : .arm ∈ ks) (s : State) : Performs R id s (arm C s) := by
  refine h.inOrder _ (fun f hf t => ?_) s
  simp only [armWrites, List.mem_cons, List.not_mem_nil, or_false] at hf
  rcases hf with rfl | rfl | rfl | rfl | rfl | rfl | rfl | rfl | rfl
  · exact h.assign ha (.stream t .primary)
  · exact h.assign hk (.control t .primary 2 false (by decide))
  · exact h.assign hk (.control t .primary 0 true (by decide))
  · exact h.assign ha (.px t)
  · exact h.assign ha (.corrupt t _)
  · exact h.assign ha (.active t)
  · exact h.assign ha (.stream t .secondary)
  · exact h.assign hk (.control t .secondary 2 false (by decide))
  · exact h.assign hk (.control t .secondary 0 true (by decide))

/-- LINE_TICK's steps 4 and 5 (R195). -/
theorem WriteRel.showLine (hk : .descriptors ∈ ks) (ha : .arm ∈ ks) (s : State) : Performs R id s (showLine C s) := by
  simp only [Machine.showLine]
  split
  · refine h.inOrder _ (fun f hf s => ?_) s
    simp only [showRow, List.mem_cons, List.not_mem_nil, or_false] at hf
    rcases hf with rfl | rfl | rfl
    · exact h.reprogram hk _ s
    · exact h.arm hk ha s
    · exact h.flushRange _ _ s
  · exact h.stay s

/-- LINE_TICK's steps (R195). -/
theorem WriteRel.tickSteps (hm : .mask ∈ ks) (ht : .tick ∈ ks) (hk : .descriptors ∈ ks) (ha : .arm ∈ ks) (s : State) :
    Performs R id s (Machine.inOrder C (tickSteps C) s) := by
  refine h.inOrder _ (fun f hf s => ?_) s
  simp only [Machine.tickSteps, List.mem_cons, List.not_mem_nil, or_false] at hf
  rcases hf with rfl | rfl | rfl | rfl | rfl | rfl
  · exact h.assign hm (.mask s true)
  · exact h.assign ht (.compareFlags s)
  · exact h.assign ht (.line s)
  · exact h.assign ht (.frameStart s)
  · exact h.showLine hk ha s
  · exact h.assign hm (.mask s false)

/-- One host store (R81), as a part of an operation. -/
theorem WriteRel.storeByte (hk : .store ∈ ks) (a : Nat) (v : Byte) (s : State) :
    Performs R id s (asPart (storeByte a v s)) := by
  cases hin : s.inFrameBuffer a
  · simp only [Machine.storeByte, hin, Bool.false_eq_true, if_false, asPart_refused]
    exact .refused _
  · rw [storeByte_of_inside hin, asPart_next]
    exact h.assign hk (.store s a v hin)

/-- Runs of host stores (R81). -/
theorem WriteRel.storeRun (hk : .store ∈ ks) (value : Nat → Byte) (base n : Nat) :
    ∀ (i : Nat) (s : State), Performs R id s (storeRun C value base n i s) := by
  induction n with
  | zero => exact fun _ s => h.stay s
  | succ n ih =>
    exact fun i s => h.andThen (h.storeByte hk _ _ s) fun s1 _ => h.andThen (h.gap s1) fun s2 _ => ih (i + 1) s2

/-- FB_FREE (R238), as a part of an operation. -/
theorem WriteRel.fbFree (hk : .release ∈ ks) (s : State) : Performs R id s (asPart (fbFree s)) := by
  simp only [Machine.fbFree]
  split
  · exact h.stay s
  · exact h.assign hk (.release s)

/-- BEGIN's rollback and the result code (R222). -/
theorem WriteRel.failBegin (hks : failClasses ⊆ ks) (code : Word) (s : State) :
    Performs R id s (failBegin C code s) := by
  refine h.inOrder _ (fun f hf s => ?_) s
  simp only [List.mem_cons, List.not_mem_nil, or_false] at hf
  rcases hf with rfl | rfl | rfl | rfl | rfl | rfl
  · exact h.assign (hks (by simp)) (.disarm s)
  · exact h.assign (hks (by simp)) (.pllOff s)
  · show Performs R id s (if s.fbValid then asPart (Machine.fbFree s) else .next s)
    split
    · exact h.fbFree (hks (by simp)) s
    · exact h.stay s
  · exact h.assign (hks (by simp)) (.clearMode s)
  · exact h.assign (hks (by simp)) (.clearDescriptors s)
  · exact h.assign (hks (by simp)) (.failure s code)

/-- BEGIN's steps 5 to 8 (R221). -/
theorem WriteRel.finishBegin (hks : finishClasses ⊆ ks) (s : State) : Performs R id s (finishBegin C s) := by
  refine h.inOrder _ (fun f hf s => ?_) s
  simp only [List.mem_cons, List.not_mem_nil, or_false] at hf
  rcases hf with rfl | rfl | rfl | rfl
  · exact h.storeRun (hks (by simp)) _ _ _ 0 s
  · exact h.configure (hks (by simp)) s
  · exact h.assign (hks (by simp)) (.startTimer s)
  · exact h.assign (hks (by simp)) (.ok s)

/-- BEGIN after a successful CLK_PROGRAM (R221). -/
theorem WriteRel.beginBuffer (hks : bufferClasses ⊆ ks) (s : State) : Performs R id s (beginBuffer C s) := by
  have hall : .allocate ∈ ks := hks (by simp)
  have hfinish : finishClasses ⊆ ks := fun _ hk => hks (.tail _ (List.mem_append_left _ hk))
  have hfail : failClasses ⊆ ks := fun _ hk => hks (.tail _ (List.mem_append_right _ hk))
  simp only [Machine.beginBuffer]
  split
  · exact .refused _
  · split
    · exact h.after hall (.allocate s) (h.andThen (h.gap _) fun t _ => h.finishBegin hfinish t)
    · exact h.after hall (.allocate s) (h.andThen (h.gap _) fun t _ => h.failBegin hfail _ t)

/-- BEGIN's steps 2 to 8 (R221). -/
theorem WriteRel.beginWith (hl : .load ∈ ks) (hk : .clock ∈ ks) (hks : bufferClasses ⊆ ks) {mode : Byte}
    {m : ResolvedMode} (hm : resolveMode C mode = some m) (s : State) : Performs R id s (beginWith C m s) := by
  refine h.after hl (.load s mode m hm) (h.andThen (h.gap _) fun s2 _ =>
    h.andThen (h.programClock hk _ s2) fun r _ => h.andThen (h.gap r.2) fun s3 _ => ?_)
  cases r.1
  · exact h.failBegin (fun _ hmem => hks (.tail _ (List.mem_append_right _ hmem))) _ s3
  · exact h.beginBuffer hks s3

/-- END's six steps (R223). -/
theorem WriteRel.endSteps (hd : .disarm ∈ ks) (hp : .pllOff ∈ ks) (hf : .release ∈ ks) (ht : .stop ∈ ks) (s : State) :
    Performs R id s (Machine.inOrder C
      [Machine.assign stopTimer, Machine.assign disarm, Machine.assign pllOff, fun s => asPart (Machine.fbFree s),
        Machine.assign clearRegisters, Machine.assign enterIdle] s) := by
  refine h.inOrder _ (fun f hmem s => ?_) s
  simp only [List.mem_cons, List.not_mem_nil, or_false] at hmem
  rcases hmem with rfl | rfl | rfl | rfl | rfl | rfl
  · exact h.assign ht (.stopTimer s)
  · exact h.assign hd (.disarm s)
  · exact h.assign hp (.pllOff s)
  · exact h.fbFree hf s
  · exact h.assign ht (.clearRegisters s)
  · exact h.assign ht (.enterIdle s)

end

/-! ## Whole operations -/

/-- A whole operation that keeps to `R`: the state it answers is related to `s`, or a RESET event in a gap abandoned
it and left its state. -/
def Answers (R : State → State → Prop) (s : State) (r : Result) : Prop :=
  ∀ t, r = .next t → R s t ∨ (¬ s.noReset ∧ ∃ u, R s u ∧ t = resetEvent u)

section
variable {R : State → State → Prop} {s : State}

theorem Answers.next {t : State} (hR : R s t) : Answers R s (.next t) := fun _ e => by cases e; exact .inl hR

theorem Answers.refused (e : Refusal) : Answers R s (.refused e) := nofun

/-- A sequence of parts answers where it went on to, or a RESET event in its gaps abandoned it. -/
theorem Performs.settle_eq_next {r : Flow State} {t : State} (h : Performs R id s r) (e : Machine.settle r = .next t) :
    r = .next t ∨ (¬ s.noReset ∧ ∃ u, R s u ∧ t = resetEvent u) := by
  rcases Machine.settle_eq_next e with rfl | rfl
  · exact .inl rfl
  · exact .inr ⟨fun hs => (h.orderly hs).1 t rfl, h.keeps⟩

theorem Answers.settle {r : Flow State} (h : Performs R id s r) : Answers R s (settle r) := by
  intro t e
  refine (h.settle_eq_next e).imp_left ?_
  rintro rfl
  exact h.keeps

/-- An indivisible operation. -/
theorem Answers.ofPart {r : Result} (h : Performs R id s (asPart r)) : Answers R s r := by
  rintro t rfl
  exact .inl h.keeps

/-- A step not taken where its precondition fails. -/
theorem Answers.ite {b : Bool} {r q : Result} (hr : b = true → Answers R s r) (hq : b = false → Answers R s q) :
    Answers R s (if b then r else q) := by
  cases b
  · exact hq rfl
  · exact hr rfl

end

section
variable {C : Config} {ks : List WriteClass} {R : State → State → Prop} (h : WriteRel C ks R)
include h

theorem WriteRel.answer {k : WriteClass} {s t : State} (hk : k ∈ ks) (hw : RegisterWrite C k s t) :
    Answers R s (.next t) := .next (h.writes hk hw)

theorem WriteRel.unchanged (s : State) : Answers R s (.next s) := .next (h.agents.refl s)

theorem WriteRel.loadByte (hk : .answer ∈ ks) (a : Nat) (s : State) : Answers R s (loadByte C a s) := by
  intro t e
  obtain ⟨-, rfl⟩ := loadByte_cases e
  exact .inl (h.writes hk (.result0 s _))

theorem WriteRel.writeRow {α : Type} [Inhabited α] (hk : .store ∈ ks) (conv : α → Byte) (y n : Half) (src : List α)
    (s : State) : Answers R s (writeRow C conv y n src s) :=
  .ite (fun _ => .settle (h.storeRun hk _ _ _ _ s)) fun _ => h.unchanged s

theorem WriteRel.beginMode (hl : .load ∈ ks) (hk : .clock ∈ ks) (hks : bufferClasses ⊆ ks) (mode : Byte) (s : State) :
    Answers R s (beginMode C mode s) := by
  have hunsupported : Answers R s (.next (reportFailure codeModeUnsupported s)) :=
    h.answer (hks (by simp)) (.failure s _)
  refine .ite (fun _ => .refused _) fun _ => ?_
  split
  · exact hunsupported
  · rename_i m hm
    split
    · exact .settle (h.beginWith hl hk hks hm s)
    · exact hunsupported

end

/-- What every operation keeps, whatever the schedule does in its gaps: a relation that the agents' steps and the
writes of its own parts keep. -/
theorem exec_answers {R : State → State → Prop} {i : Instr} (h : WriteRel Config.chip (writeClasses i) R) (s : State) :
    Answers R s (exec i s) := by
  cases i with
  | nop => exact h.unchanged s
  | beginMode mode =>
    exact h.beginMode (by simp) (by simp) (fun _ hk => .tail _ (.tail _ hk)) mode s
  | endMode =>
    exact .ite (fun _ => h.unchanged s) fun _ => .settle (h.endSteps (by simp) (by simp) (by simp) (by simp) s)
  | tweak shiftDelta numDelta denomDelta =>
    refine .ite (fun _ => .next ?_) fun _ => h.unchanged s
    exact h.trans (h.writes (by simp) (.tweakShift s shiftDelta))
      (h.writes (by simp) (.tweakClock _ numDelta denomDelta))
  | waitVsync => exact h.answer (by simp) (.pending s _)
  | waitLine n => exact h.answer (by simp) (.pending s _)
  | frameSize => exact h.answer (by simp) (.frameSize s)
  | rowPointer y => exact h.answer (by simp) (.result0 s _)
  | getPixel x y =>
    exact .ite (fun _ => h.loadByte (by simp) _ s) fun _ =>
      h.answer (by simp) (.result0 s 0)
  | setPixel x y v =>
    exact .ite (fun _ => .ofPart (h.storeByte (by simp) _ v s)) fun _ => h.unchanged s
  | writeRowNative y n src => exact h.writeRow (by simp) _ y n src s
  | writeRowPal8 y n src => exact h.writeRow (by simp) _ y n src s
  | writeRowRgb565 y n src => exact h.writeRow (by simp) _ y n src s
  | fbLoad addr => exact h.loadByte (by simp) _ s
  | fbStore v addr => exact .ofPart (h.storeByte (by simp) _ v s)
  | rdreg reg => exact h.answer (by simp) (.result0 s _)
  | modeResolve mode => exact h.unchanged s
  | clkProgram target =>
    exact .ite (fun _ => .settle (h.andThen (h.programClock (by simp) _ s) fun r _ => h.stay r.2))
      fun _ => h.unchanged s
  | pllLock => exact .next (h.agents.lock s)
  | dmaConfigure => exact .ite (fun _ => .settle (h.configure (by simp) s)) fun _ => h.unchanged s
  | dmaEnable =>
    exact .ite (fun _ => .settle (h.arm (by simp) (by simp) s)) fun _ => h.unchanged s
  | dmaDisable => exact h.answer (by simp) (.disarm s)
  | dmaReprogram p =>
    exact .ite (fun _ => .settle (h.reprogram (by simp) p s)) fun _ => h.unchanged s
  | dmaBeat c => exact .ite (fun _ => .settle (h.beat c s)) fun _ => h.unchanged s
  | shiftOut => exact .next (h.agents.pixel s)
  | tmrStep => exact .next (h.agents.timer s)
  | lineTick =>
    refine .ite (fun _ => ?_) fun _ => h.unchanged s
    split
    · exact .refused _
    · exact .settle (h.tickSteps (by simp) (by simp) (by simp)
        (by simp) s)
  | irqMask => exact .ite (fun _ => h.unchanged s) fun _ => h.answer (by simp) (.mask s true)
  | irqUnmask => exact .ite (fun _ => h.answer (by simp) (.mask s false)) fun _ => h.unchanged s
  | cacheFlush len addr => exact .settle (h.flushRange _ _ s)
  | fbAlloc => exact .ite (fun _ => h.unchanged s) fun _ => h.answer (by simp) (.allocate s)
  | fbFree => exact .ofPart (h.fbFree (by simp) s)
  | cacheEvict addr => exact .next (h.agents.write _ s)

/-- An operation answers a related state, or the one a RESET event in its gaps left. -/
theorem exec_keeps {R : State → State → Prop} {i : Instr} {s t : State}
    (h : WriteRel Config.chip (writeClasses i) R) (e : exec i s = .next t) :
    R s t ∨ ∃ u, R s u ∧ t = resetEvent u :=
  (exec_answers h s t e).imp_right And.right

/-- Without a RESET event in its gaps an operation answers a related state. -/
theorem exec_keeps_of_noReset {R : State → State → Prop} {i : Instr} {s t : State}
    (h : WriteRel Config.chip (writeClasses i) R) (hs : s.noReset) (e : exec i s = .next t) : R s t :=
  (exec_answers h s t e).resolve_right fun hreset => hreset.1 hs

end Sys2Proof.Machine
end

section
/-! What a step of the machine can do (spec/00_scope.md R7, R8), and the reset state: an induction principle for what
every step keeps (`step_keeps`), and the statements of spec/10_state.md that need the reset values alone (R42). -/

namespace Sys2Proof.Machine

/-! ## The step -/

/-- What HOST and the schedule take from the ports and the agenda before an operation runs. -/
def State.withPorts (s : State) (agenda : List Slot) (cmd : List Command) (data : List Half) : State :=
  { s with agenda := agenda, cmd := cmd, data := data }

/-- HOST takes a word and runs its operation, or ignores it, or waits. -/
theorem takeCommand_cases {s t : State} (h : takeCommand s = .next t) :
    ∃ cmd data, t = s.withPorts s.agenda cmd data ∨ ∃ i, exec i (s.withPorts s.agenda cmd data) = .next t := by
  simp only [takeCommand] at h
  split at h
  · cases h; exact ⟨s.cmd, s.data, .inl rfl⟩
  · rename_i w rest hcmd
    split at h
    · cases h
    · split at h
      · rename_i i data hdecode; exact ⟨rest, data, .inr ⟨i, h⟩⟩
      · cases h; exact ⟨s.cmd, s.data, .inl rfl⟩
      · cases h; exact ⟨rest, s.data, .inl rfl⟩

theorem hostMove_cases {s t : State} (h : hostMove s = .next t) :
    ∃ cmd data, t = s.withPorts s.agenda cmd data ∨ ∃ i, exec i (s.withPorts s.agenda cmd data) = .next t := by
  simp only [hostMove] at h
  split at h
  · rename_i i hpending
    split at h
    · cases h; exact ⟨s.cmd, s.data, .inl rfl⟩
    · exact ⟨s.cmd, s.data, .inr ⟨i, h⟩⟩
  · exact takeCommand_cases h

theorem agentMove_cases {w : Command} {s t : State} (h : agentMove w s = .next t) : ∃ i, exec i s = .next t := by
  simp only [agentMove] at h
  split at h
  · rename_i i hdecode; exact ⟨i, h⟩
  · cases h

/-- A step takes something from the ports and the agenda, or nothing, and then runs one operation, or none, or is the
RESET event. -/
theorem step_cases {s t : State} (h : step s = .next t) :
    ∃ agenda cmd data, t = s.withPorts agenda cmd data
      ∨ (∃ i, exec i (s.withPorts agenda cmd data) = .next t)
      ∨ t = resetEvent (s.withPorts agenda cmd data) := by
  simp only [step, nextMove] at h
  split at h
  · obtain ⟨cmd, data, hmove⟩ := hostMove_cases h
    exact ⟨_, cmd, data, hmove.imp_right .inl⟩
  · obtain ⟨cmd, data, hmove⟩ := hostMove_cases h
    exact ⟨_, cmd, data, hmove.imp_right .inl⟩
  · rename_i w rest hagenda
    exact ⟨rest, s.cmd, s.data, .inr (.inl (agentMove_cases h))⟩
  · rename_i rest hagenda
    cases h
    exact ⟨rest, s.cmd, s.data, .inr (.inr rfl)⟩

/-- What the ports, the operations and the RESET event keep, every step keeps. -/
theorem step_keeps {R : State → State → Prop} (htrans : ∀ s t u, R s t → R t u → R s u)
    (hports : ∀ s agenda cmd data, R s (s.withPorts agenda cmd data))
    (hexec : ∀ i s t, exec i s = .next t → R s t) (hreset : ∀ s, R s (resetEvent s)) {s t : State}
    (h : step s = .next t) : R s t := by
  obtain ⟨agenda, cmd, data, rfl | ⟨i, hi⟩ | rfl⟩ := step_cases h
  · exact hports s agenda cmd data
  · exact htrans _ _ _ (hports s agenda cmd data) (hexec i _ _ hi)
  · exact htrans _ _ _ (hports s agenda cmd data) (hreset _)

/-! ## The state after reset -/

/-- Settles O8: the 47 registers are read off the table; the rest is the reset state as it stands. -/
theorem resetValues : Obligations.ResetValues := by
  unfold Obligations.ResetValues
  refine ⟨by decide +kernel, ⟨rfl, rfl, rfl, rfl, rfl, rfl, rfl, rfl, rfl, rfl, rfl, rfl, rfl⟩, rfl, rfl, rfl,
    fun _ _ => rfl, fun _ => rfl, rfl, rfl, rfl, ?_⟩
  have hdisabled : State.reset.tickEnabled = false := rfl
  show lineTick Config.chip State.reset = .next State.reset
  simp [lineTick, hdisabled]

theorem reservedZero_reset : reservedZero State.reset := by unfold reservedZero; decide

/-- Settles O16: in IDLE with no frame buffer the laws of the mode, LINE and the buffer ask nothing; the others hold
of the reset values. -/
theorem resetMeetsInvariants : Obligations.ResetMeetsInvariants := by
  unfold Obligations.ResetMeetsInvariants
  refine ⟨⟨reset_mem_wf, reset_cache_wf⟩, ?_⟩
  exact
    { controller := .inl rfl
      reserved := reservedZero_reset
      mode := fun hrun => by cases hrun
      line := fun hrun => by cases hrun
      shift := Nat.zero_le _
      pll := ⟨by decide, fun henabled => by cases henabled⟩
      buffer := fun hvalid => by cases hvalid
      sync := rfl
      black := fun _ => rfl }

end Sys2Proof.Machine
end

section
/-! The output pins and the observable sequence (spec/10_state.md R34): every operation only adds samples to it. -/

namespace Sys2Proof.Machine

/-- The samples shown so far stay, the oldest at the end of the list. -/
theorem shown_rel (C : Config) : AgentRel C (fun s t => s.shown <:+ t.shown) where
  refl := fun _ => List.suffix_refl _
  trans := fun _ _ _ h k => h.trans k
  timer := fun s => by
    rcases timerClock_cases s with ⟨-, h⟩ | ⟨-, h⟩ <;> rw [h]
    exact List.suffix_cons _ _
  lock := fun s => by simp only [lockPll]; split <;> exact List.suffix_refl _
  pixel := fun s => by
    simp only [pixelClock]
    split
    · split
      · exact List.suffix_cons _ _
      · split
        · exact List.suffix_cons _ _
        · split
          · exact List.suffix_cons _ _
          · exact List.suffix_refl _
    · exact List.suffix_refl _
  write := fun a s => by rw [writeBack_eq]
  draw := fun _ _ => List.suffix_refl _
  finish := fun c bytes s => by simp [finishBeat, writePort]
  schedule := fun _ _ _ _ => List.suffix_refl _

/-- Of the register writes LINE_TICK's step 3 alone adds a sample. -/
theorem RegisterWrite.shown {C : Config} {k : WriteClass} {s t : State} (h : RegisterWrite C k s t) :
    s.shown <:+ t.shown := by
  cases h with
  | frameStart => exact List.suffix_cons _ _
  | tweakShift _ delta => rcases tweakShift_cases C delta s with e | ⟨v, -, e⟩ <;> rw [e]
  | tweakClock _ num denom => rcases tweakClock_cases num denom s with e | ⟨n, d, -, e⟩ <;> rw [e]
  | allocate => rcases allocate_cases C s with e | ⟨a, -, -, e⟩ <;> rw [e]
  | geometry _ c d hdcsr => rw [State.setChan_shown]
  | control _ c i v hi => rw [State.setChan_shown]
  | stream _ c => rw [State.setStream_shown]
  | _ => exact List.suffix_refl _

theorem shown_writeRel (C : Config) (ks : List WriteClass) : WriteRel C ks (fun s t => s.shown <:+ t.shown) :=
  ⟨shown_rel C, fun _ hw => hw.shown⟩

theorem step_shown {s t : State} (h : step s = .next t) : s.shown <:+ t.shown := by
  refine step_keeps (R := fun s t => s.shown <:+ t.shown) (fun _ _ _ h k => h.trans k)
    (fun _ _ _ _ => List.suffix_refl _) (fun i s t e => ?_) (fun _ => List.suffix_refl _) h
  rcases exec_keeps (shown_writeRel _ _) e with hst | ⟨u, hsu, rfl⟩
  · exact hst
  · exact hsu

/-- Settles O10: the pins are functions of the registers, and the sequence, whose newest sample stands first, only
grows at that end. -/
theorem pinsFollowRegisters : Obligations.PinsFollowRegisters := by
  unfold Obligations.PinsFollowRegisters
  refine ⟨fun C s => ⟨?_, ?_⟩, fun s t h => ?_⟩
  · simp [pins, Sample.pins, State.sample, State.tmrOut, State.vsync, getFlag, BitVec.setWidth_eq_extractLsb']
  · simp only [observable, ← List.map_reverse]
    rfl
  · obtain ⟨new, hnew⟩ := step_shown h
    exact ⟨new.reverse, by rw [← hnew, List.reverse_append]⟩

end Sys2Proof.Machine
end

section
/-! The reserved bits of the control registers (spec/10_state.md R21, R24, R25, R28 to R30, R32, R33): a register
written flag by flag, from a byte or with a value of the spec keeps them zero, so every agent's step and every
register write does. -/

namespace Sys2Proof.Machine

/-! ## Reserved bits of one register -/

/-- A flag outside the reserved bits, written, leaves them zero. -/
theorem setFlag_reserved {r used : Word} {i : Nat} (v : Bool) (hr : r &&& ~~~used = 0) (hi : i < 32)
    (hused : used.getLsbD i = true) : setFlag r i v &&& ~~~used = 0 := by
  refine BitVec.eq_of_getLsbD_eq fun j hj => ?_
  rw [BitVec.getLsbD_and, BitVec.getLsbD_not]
  by_cases hji : j = i
  · subst hji; simp [hused]
  · have hbit := congrArg (·.getLsbD j) hr
    simp only [BitVec.getLsbD_and, BitVec.getLsbD_not] at hbit
    have hother : (setFlag r i v).getLsbD j = r.getLsbD j := getFlag_setFlag_ne r i j v hi hji
    rw [hother]
    exact hbit

theorem zextByte_reserved (b : Byte) : zextByte b &&& ~~~(0xFF : Word) = 0 := by
  revert b; decide

theorem packMflags_reserved (ld combine : Bool) : packMflags ld combine &&& ~~~(0x3 : Word) = 0 :=
  setFlag_reserved combine (setFlag_reserved ld (by decide) (by decide) (by decide)) (by decide) (by decide)

/-- R169: a beat writes DONE and ERQ of DCSR. -/
theorem advanceDescriptor_reserved {d : Descriptor} (h : d.dcsr &&& ~~~(0x7 : Word) = 0) :
    (advanceDescriptor d).dcsr &&& ~~~(0x7 : Word) = 0 := by
  have hdone : setFlag d.dcsr 2 true &&& ~~~(0x7 : Word) = 0 := setFlag_reserved _ h (by decide) (by decide)
  simp only [advanceDescriptor]
  split
  · split
    · exact setFlag_reserved _ hdone (by decide) (by decide)
    · exact hdone
  · exact h

/-- R191: a clock writes OUT, the compare flags and PHASE of TMR_CTRL. -/
theorem clocked_reserved {t : LineTimer} (h : t.ctrl &&& ~~~(0x3F : Word) = 0) :
    t.clocked.ctrl &&& ~~~(0x3F : Word) = 0 := by
  have hwrite (r : Word) (i : Nat) (v : Bool) (hr : r &&& ~~~(0x3F : Word) = 0) (hi : i < 6) :
      setFlag r i v &&& ~~~(0x3F : Word) = 0 :=
    setFlag_reserved v hr (by omega) (by interval_cases i <;> decide)
  simp only [LineTimer.clocked]
  split
  · exact hwrite _ 2 _ (hwrite _ 4 _ (hwrite _ 3 _ h (by decide)) (by decide)) (by decide)
  · split
    · exact hwrite _ 2 _ (hwrite _ 5 _ (hwrite _ 3 _ h (by decide)) (by decide)) (by decide)
    · exact h

/-! ## The reserved bits of all of them -/

/-- The agents write flags, whole bytes of COLOR, and no other control register. -/
theorem reservedZero_rel (C : Config) : AgentRel C (fun s t => reservedZero s → reservedZero t) where
  refl := fun _ h => h
  trans := fun _ _ _ hst htu h => htu (hst h)
  timer := fun s h => by
    rcases timerClock_cases s with ⟨-, e⟩ | ⟨-, e⟩ <;> rw [e]
    · exact h
    · obtain ⟨hst, hflags, hmode, hpll, htmr, hd0, hd1, hfb, hfrm, hcolor⟩ := h
      exact ⟨hst, hflags, hmode, hpll, clocked_reserved htmr, hd0, hd1, hfb, hfrm, hcolor⟩
  lock := fun s h => by
    simp only [lockPll]
    split
    · obtain ⟨hst, hflags, hmode, hpll, htmr, hd0, hd1, hfb, hfrm, hcolor⟩ := h
      exact ⟨hst, hflags, hmode, setFlag_reserved _ hpll (by decide) (by decide), htmr, hd0, hd1, hfb, hfrm, hcolor⟩
    · exact h
  pixel := fun s h => by
    have hsame := h
    obtain ⟨hst, hflags, hmode, hpll, htmr, hd0, hd1, hfb, hfrm, hcolor⟩ := h
    simp only [pixelClock]
    split
    · split
      · have hctrl := setFlag_reserved (i := 1) false (setFlag_reserved (i := 0) false hfrm (by decide) (by decide))
          (by decide) (by decide)
        exact ⟨hst, hflags, hmode, hpll, htmr, hd0, hd1, hfb, hctrl, BitVec.zero_and⟩
      · split
        · exact ⟨hst, hflags, hmode, hpll, htmr, hd0, hd1, hfb, hfrm, zextByte_reserved _⟩
        · split
          · exact ⟨hst, hflags, hmode, hpll, htmr, hd0, hd1, hfb, hfrm, zextByte_reserved _⟩
          · exact hsame
    · exact hsame
  write := fun a s h => by rw [writeBack_eq]; exact h
  draw := fun _ _ h => h
  finish := fun c bytes s h => by
    obtain ⟨hst, hflags, hmode, hpll, htmr, hd0, hd1, hfb, hfrm, hcolor⟩ := h
    cases c with
    | primary =>
      exact ⟨hst, hflags, hmode, hpll, htmr, advanceDescriptor_reserved hd0, hd1, hfb, hfrm, hcolor⟩
    | secondary =>
      exact ⟨hst, hflags, hmode, hpll, htmr, hd0, advanceDescriptor_reserved hd1, hfb, hfrm, hcolor⟩
  schedule := fun _ _ _ _ h => h

/-- Every register write is of a flag, of a register without reserved bits, or of a value of the spec. -/
theorem RegisterWrite.reservedZero {C : Config} {k : WriteClass} {s t : State} (hw : RegisterWrite C k s t)
    (h : reservedZero s) : reservedZero t := by
  have hsame := h
  obtain ⟨hst, hflags, hmode, hpll, htmr, hd0, hd1, hfb, hfrm, hcolor⟩ := h
  have hflag (i : Nat) (v : Bool) (hi : i < 4) : setFlag s.flags i v &&& ~~~(0xF : Word) = 0 :=
    setFlag_reserved v hflags (by omega) (by interval_cases i <;> decide)
  have hdisarm (r : Word) (hr : r &&& ~~~(0x7 : Word) = 0) : setFlag r 0 false &&& ~~~(0x7 : Word) = 0 :=
    setFlag_reserved false hr (by decide) (by decide)
  cases hw with
  | tweakShift _ delta =>
    rcases tweakShift_cases C delta s with e | ⟨v, -, e⟩ <;> rw [e] <;> exact hsame
  | tweakClock _ num denom =>
    rcases tweakClock_cases num denom s with e | ⟨n, d, -, e⟩ <;> rw [e] <;> exact hsame
  | program _ p hctrl =>
    exact ⟨hst, hflags, hmode, by rw [hctrl]; exact hpll, htmr, hd0, hd1, hfb, hfrm, hcolor⟩
  | pllLock _ v =>
    exact ⟨hst, hflags, hmode, setFlag_reserved v hpll (by decide) (by decide), htmr, hd0, hd1, hfb, hfrm, hcolor⟩
  | pllEnable _ v =>
    exact ⟨hst, hflags, hmode, setFlag_reserved v hpll (by decide) (by decide), htmr, hd0, hd1, hfb, hfrm, hcolor⟩
  | geometry _ c d hdcsr =>
    cases c with
    | primary =>
      exact ⟨hst, hflags, hmode, hpll, htmr, (congrArg (· &&& ~~~(0x7 : Word)) hdcsr).trans hd0, hd1, hfb, hfrm, hcolor⟩
    | secondary =>
      exact ⟨hst, hflags, hmode, hpll, htmr, hd0, (congrArg (· &&& ~~~(0x7 : Word)) hdcsr).trans hd1, hfb, hfrm, hcolor⟩
  | control _ c i v hi =>
    have hwrite (r : Word) (hr : r &&& ~~~(0x7 : Word) = 0) : setFlag r i v &&& ~~~(0x7 : Word) = 0 :=
      setFlag_reserved v hr (by omega) (by interval_cases i <;> decide)
    cases c with
    | primary => exact ⟨hst, hflags, hmode, hpll, htmr, hwrite _ hd0, hd1, hfb, hfrm, hcolor⟩
    | secondary => exact ⟨hst, hflags, hmode, hpll, htmr, hd0, hwrite _ hd1, hfb, hfrm, hcolor⟩
  | unaligned _ v => exact ⟨hst, hflag 3 v (by decide), hmode, hpll, htmr, hd0, hd1, hfb, hfrm, hcolor⟩
  | stream _ c => cases c <;> exact hsame
  | corrupt _ v =>
    exact ⟨hst, hflags, hmode, hpll, htmr, hd0, hd1, hfb, setFlag_reserved v hfrm (by decide) (by decide), hcolor⟩
  | active =>
    exact ⟨hst, hflags, hmode, hpll, htmr, hd0, hd1, hfb, setFlag_reserved _ hfrm (by decide) (by decide), hcolor⟩
  | disarm =>
    have hctrl := setFlag_reserved (i := 1) false (setFlag_reserved (i := 0) false hfrm (by decide) (by decide))
      (by decide) (by decide)
    exact ⟨hst, hflags, hmode, hpll, htmr, hdisarm _ hd0, hdisarm _ hd1, hfb, hctrl, BitVec.zero_and⟩
  | mask _ v => exact ⟨hst, hflag 2 v (by decide), hmode, hpll, htmr, hd0, hd1, hfb, hfrm, hcolor⟩
  | compareFlags =>
    have hctrl := setFlag_reserved (i := 5) false (setFlag_reserved (i := 4) false htmr (by decide) (by decide))
      (by decide) (by decide)
    exact ⟨hst, hflags, hmode, hpll, hctrl, hd0, hd1, hfb, hfrm, hcolor⟩
  | frameStart =>
    have hboth := setFlag_reserved (i := 0) (s.line == 0) (hflag 1 (s.line == 0) (by decide)) (by decide) (by decide)
    exact ⟨hst, hboth, hmode, hpll, htmr, hd0, hd1, hfb, hfrm, hcolor⟩
  | allocate =>
    rcases allocate_cases C s with e | ⟨a, -, -, e⟩ <;> rw [e]
    · exact hsame
    · exact ⟨hst, hflags, hmode, hpll, htmr, hd0, hd1, setFlag_reserved _ hfb (by decide) (by decide), hfrm, hcolor⟩
  | release =>
    exact ⟨hst, hflags, hmode, hpll, htmr, hd0, hd1, setFlag_reserved _ hfb (by decide) (by decide), hfrm, hcolor⟩
  | load _ mode m hm =>
    exact ⟨hst, hflags, packMflags_reserved m.ld m.combine, hpll, htmr, hd0, hd1, hfb, hfrm, hcolor⟩
  | startTimer =>
    have htwo := setFlag_reserved (i := 1) false (hflag 0 false (by decide)) (by decide) (by decide)
    have hall := setFlag_reserved (i := 2) false htwo (by decide) (by decide)
    have hrunning : (1 : Word) &&& ~~~(0x3 : Word) = 0 := by decide
    have hstarted : (3 : Word) &&& ~~~(0x3F : Word) = 0 := by decide
    exact ⟨hrunning, hall, hmode, hpll, hstarted, hd0, hd1, hfb, hfrm, hcolor⟩
  | pllOff => exact ⟨hst, hflags, hmode, BitVec.zero_and, htmr, hd0, hd1, hfb, hfrm, hcolor⟩
  | clearMode => exact ⟨hst, hflags, BitVec.zero_and, hpll, htmr, hd0, hd1, hfb, hfrm, hcolor⟩
  | clearDescriptors => exact ⟨hst, hflags, hmode, hpll, htmr, BitVec.zero_and, BitVec.zero_and, hfb, hfrm, hcolor⟩
  | stopTimer =>
    have hctrl := setFlag_reserved (i := 0) false (setFlag_reserved (i := 1) false htmr (by decide) (by decide))
      (by decide) (by decide)
    exact ⟨hst, hflags, hmode, hpll, hctrl, hd0, hd1, hfb, hfrm, hcolor⟩
  | clearRegisters =>
    have hstopped : (8 : Word) &&& ~~~(0x3F : Word) = 0 := by decide
    exact ⟨hst, BitVec.zero_and, BitVec.zero_and, hpll, hstopped, BitVec.zero_and, BitVec.zero_and, hfb, hfrm, hcolor⟩
  | enterIdle => exact ⟨BitVec.zero_and, hflags, hmode, hpll, htmr, hd0, hd1, hfb, hfrm, hcolor⟩
  | _ => exact hsame

theorem reservedZero_resetEvent (s : State) : reservedZero (resetEvent s) := reservedZero_reset

/-- Settles O12: no agent's step and no register write sets a reserved bit, and RESET clears them all. -/
theorem stepKeepsReservedZero : Obligations.StepKeepsReservedZero := by
  unfold Obligations.StepKeepsReservedZero
  intro s t hs h
  refine step_keeps (R := fun s t => reservedZero s → reservedZero t) (fun _ _ _ hst htu h => htu (hst h))
    (fun _ _ _ _ h => h) (fun i s t e => ?_) (fun s _ => reservedZero_resetEvent s) h hs
  rcases exec_keeps ⟨reservedZero_rel Config.chip, fun _ hw => hw.reservedZero⟩ e with hst | ⟨u, -, rfl⟩
  · exact hst
  · exact fun _ => reservedZero_resetEvent u

end Sys2Proof.Machine
end

section
/-! Which operations write which registers, and which change what the host sees of memory (spec/10_state.md R21 to R26,
spec/20_memory.md R41, R80 to R84): the frame of each part of an operation, which operations have the part, and how a
BEGIN and an END end. -/

namespace Sys2Proof.Machine

/-! ## A value that a part leaves as it is -/

/-- A value that reads nothing but the registers an agent's step keeps. -/
theorem agentRel_of_frame (C : Config) {α : Type} (f : State → α) (hf : ∀ s t, AgentFrame s t → f t = f s) :
    AgentRel C (fun s t => f t = f s) where
  refl := fun _ => rfl
  trans := fun _ _ _ hst htu => htu.trans hst
  timer := fun s => hf _ _ (timerClock_step s).frame
  lock := fun s => hf _ _ (lockPll_step s).frame
  pixel := fun s => hf _ _ (pixelClock_step C s).frame
  write := fun a s => hf _ _ (writeBack_step a s).frame
  draw := fun s n => hf _ _ (draws_step s n).frame
  finish := fun c bytes s => hf _ _ (finishBeat_step c bytes s).frame
  schedule := fun s _ rest _ => hf _ _ (gaps_step s rest).frame

/-- A property that reads nothing but those registers. -/
theorem agentRel_of_frame_imp (C : Config) {P : State → Prop} (hP : ∀ s t, AgentFrame s t → P s → P t) :
    AgentRel C (fun s t => P s → P t) where
  refl := fun _ h => h
  trans := fun _ _ _ hst htu h => htu (hst h)
  timer := fun s => hP _ _ (timerClock_step s).frame
  lock := fun s => hP _ _ (lockPll_step s).frame
  pixel := fun s => hP _ _ (pixelClock_step C s).frame
  write := fun a s => hP _ _ (writeBack_step a s).frame
  draw := fun s n => hP _ _ (draws_step s n).frame
  finish := fun c bytes s => hP _ _ (finishBeat_step c bytes s).frame
  schedule := fun s _ rest _ => hP _ _ (gaps_step s rest).frame

/-- What the writes of each part leave alone: STATE but where a mode is started or stopped; the VideoMode registers but
where one is loaded, rolled back or stopped; LINE but in LINE_TICK and where a mode is started or stopped; SHIFT but in
TWEAK and with the mode; RESULT1 but in FRAME_SIZE and a failing BEGIN; RESULT0 but in the commands that return a value
and BEGIN. -/
structure PartFrame (k : WriteClass) (s t : State) : Prop where
  stateReg : k ∉ [WriteClass.start, .stop] → t.stateReg = s.stateReg
  mode : k ∉ [WriteClass.load, .rollback, .stop] → t.mode = s.mode
  line : k ∉ [WriteClass.tick, .start, .stop] → t.line = s.line
  shift : k ∉ [WriteClass.tweak, .load, .rollback, .stop] → t.shift = s.shift
  result1 : k ∉ [WriteClass.frameSize, .rollback] → t.result1 = s.result1
  result0 : k ∉ [WriteClass.answer, .frameSize, .start, .rollback] → t.result0 = s.result0

theorem RegisterWrite.frame {C : Config} {k : WriteClass} {s t : State} (hw : RegisterWrite C k s t) :
    PartFrame k s t := by
  cases hw with
  | result0 _ v =>
    exact ⟨fun _ => rfl, fun _ => rfl, fun _ => rfl, fun _ => rfl, fun _ => rfl, (absurd (by simp) ·)⟩
  | frameSize =>
    exact ⟨fun _ => rfl, fun _ => rfl, fun _ => rfl, fun _ => rfl, (absurd (by simp) ·), (absurd (by simp) ·)⟩
  | tweakShift _ delta =>
    rcases tweakShift_cases C delta s with e | ⟨v, -, e⟩ <;> rw [e] <;>
      exact ⟨fun _ => rfl, fun _ => rfl, fun _ => rfl, (absurd (by simp) ·), fun _ => rfl, fun _ => rfl⟩
  | tweakClock _ num denom =>
    rcases tweakClock_cases num denom s with e | ⟨n, d, -, e⟩ <;> rw [e] <;>
      exact ⟨fun _ => rfl, fun _ => rfl, fun _ => rfl, fun _ => rfl, fun _ => rfl, fun _ => rfl⟩
  | allocate =>
    rcases allocate_cases C s with e | ⟨a, -, -, e⟩ <;> rw [e] <;>
      exact ⟨fun _ => rfl, fun _ => rfl, fun _ => rfl, fun _ => rfl, fun _ => rfl, fun _ => rfl⟩
  | geometry _ c d hdcsr => cases c <;>
      exact ⟨fun _ => rfl, fun _ => rfl, fun _ => rfl, fun _ => rfl, fun _ => rfl, fun _ => rfl⟩
  | control _ c i v hi => cases c <;>
      exact ⟨fun _ => rfl, fun _ => rfl, fun _ => rfl, fun _ => rfl, fun _ => rfl, fun _ => rfl⟩
  | stream _ c => cases c <;>
      exact ⟨fun _ => rfl, fun _ => rfl, fun _ => rfl, fun _ => rfl, fun _ => rfl, fun _ => rfl⟩
  | line =>
    exact ⟨fun _ => rfl, fun _ => rfl, (absurd (by simp) ·), fun _ => rfl, fun _ => rfl, fun _ => rfl⟩
  | load _ mode m hm =>
    exact ⟨fun _ => rfl, (absurd (by simp) ·), fun _ => rfl, (absurd (by simp) ·), fun _ => rfl, fun _ => rfl⟩
  | startTimer =>
    exact ⟨(absurd (by simp) ·), fun _ => rfl, (absurd (by simp) ·), fun _ => rfl, fun _ => rfl, fun _ => rfl⟩
  | ok =>
    exact ⟨fun _ => rfl, fun _ => rfl, fun _ => rfl, fun _ => rfl, fun _ => rfl, (absurd (by simp) ·)⟩
  | clearMode =>
    exact ⟨fun _ => rfl, (absurd (by simp) ·), fun _ => rfl, (absurd (by simp) ·), fun _ => rfl, fun _ => rfl⟩
  | failure _ code =>
    exact ⟨fun _ => rfl, fun _ => rfl, fun _ => rfl, fun _ => rfl, (absurd (by simp) ·), (absurd (by simp) ·)⟩
  | clearRegisters =>
    exact ⟨fun _ => rfl, (absurd (by simp) ·), (absurd (by simp) ·), (absurd (by simp) ·), fun _ => rfl, fun _ => rfl⟩
  | enterIdle =>
    exact ⟨(absurd (by simp) ·), fun _ => rfl, fun _ => rfl, fun _ => rfl, fun _ => rfl, fun _ => rfl⟩
  | _ =>
    exact ⟨fun _ => rfl, fun _ => rfl, fun _ => rfl, fun _ => rfl, fun _ => rfl, fun _ => rfl⟩

/-- A value of the registers that only the parts `classes` write: the others keep it. -/
theorem writeRel_of_frame {C : Config} {ks : List WriteClass} {α : Type} (f : State → α)
    (hframe : ∀ s t, AgentFrame s t → f t = f s) (classes : List WriteClass)
    (hpart : ∀ k s t, k ∉ classes → PartFrame k s t → f t = f s) (hks : ∀ k ∈ classes, k ∉ ks) :
    WriteRel C ks (fun s t => f t = f s) :=
  ⟨agentRel_of_frame C f hframe, fun hk hw => hpart _ _ _ (fun hmem => hks _ hmem hk) hw.frame⟩

section
variable {C : Config} {ks : List WriteClass}

theorem stateReg_rel (hks : ∀ k ∈ [WriteClass.start, .stop], k ∉ ks) :
    WriteRel C ks (fun s t => t.stateReg = s.stateReg) :=
  writeRel_of_frame _ (fun _ _ h => h.stateReg) _ (fun _ _ _ hk h => h.stateReg hk) hks

theorem mode_rel (hks : ∀ k ∈ [WriteClass.load, .rollback, .stop], k ∉ ks) :
    WriteRel C ks (fun s t => t.mode = s.mode) :=
  writeRel_of_frame _ (fun _ _ h => h.mode) _ (fun _ _ _ hk h => h.mode hk) hks

theorem line_rel (hks : ∀ k ∈ [WriteClass.tick, .start, .stop], k ∉ ks) :
    WriteRel C ks (fun s t => t.line = s.line) :=
  writeRel_of_frame _ (fun _ _ h => h.line) _ (fun _ _ _ hk h => h.line hk) hks

theorem shift_rel (hks : ∀ k ∈ [WriteClass.tweak, .load, .rollback, .stop], k ∉ ks) :
    WriteRel C ks (fun s t => t.shift = s.shift) :=
  writeRel_of_frame _ (fun _ _ h => h.shift) _ (fun _ _ _ hk h => h.shift hk) hks

theorem result1_rel (hks : ∀ k ∈ [WriteClass.frameSize, .rollback], k ∉ ks) :
    WriteRel C ks (fun s t => t.result1 = s.result1) :=
  writeRel_of_frame _ (fun _ _ h => h.result1) _ (fun _ _ _ hk h => h.result1 hk) hks

theorem result0_rel (hks : ∀ k ∈ [WriteClass.answer, .frameSize, .start, .rollback], k ∉ ks) :
    WriteRel C ks (fun s t => t.result0 = s.result0) :=
  writeRel_of_frame _ (fun _ _ h => h.result0) _ (fun _ _ _ hk h => h.result0 hk) hks

end

/-! ## Which operations have the part -/

section
variable {i : Instr}

theorem stateReg_not_mem_writeClasses (hbegin : ∀ m, i ≠ .beginMode m) (hend : i ≠ .endMode) :
    ∀ k ∈ [WriteClass.start, .stop], k ∉ writeClasses i := by
  cases i with
  | beginMode m => exact absurd rfl (hbegin m)
  | endMode => exact absurd rfl hend
  | _ => simp

theorem mode_not_mem_writeClasses (hbegin : ∀ m, i ≠ .beginMode m) (hend : i ≠ .endMode) :
    ∀ k ∈ [WriteClass.load, .rollback, .stop], k ∉ writeClasses i := by
  cases i with
  | beginMode m => exact absurd rfl (hbegin m)
  | endMode => exact absurd rfl hend
  | _ => simp

theorem line_not_mem_writeClasses (hbegin : ∀ m, i ≠ .beginMode m) (hend : i ≠ .endMode) (htick : i ≠ .lineTick) :
    ∀ k ∈ [WriteClass.tick, .start, .stop], k ∉ writeClasses i := by
  cases i with
  | beginMode m => exact absurd rfl (hbegin m)
  | endMode => exact absurd rfl hend
  | lineTick => exact absurd rfl htick
  | _ => simp

theorem shift_not_mem_writeClasses (hbegin : ∀ m, i ≠ .beginMode m) (hend : i ≠ .endMode)
    (htweak : ∀ a b c, i ≠ .tweak a b c) :
    ∀ k ∈ [WriteClass.tweak, .load, .rollback, .stop], k ∉ writeClasses i := by
  cases i with
  | beginMode m => exact absurd rfl (hbegin m)
  | endMode => exact absurd rfl hend
  | tweak a b c => exact absurd rfl (htweak a b c)
  | _ => simp

theorem result1_not_mem_writeClasses (hbegin : ∀ m, i ≠ .beginMode m) (hsize : i ≠ .frameSize) :
    ∀ k ∈ [WriteClass.frameSize, .rollback], k ∉ writeClasses i := by
  cases i with
  | beginMode m => exact absurd rfl (hbegin m)
  | frameSize => exact absurd rfl hsize
  | _ => simp

theorem result0_not_mem_writeClasses (hbegin : ∀ m, i ≠ .beginMode m) (hsize : i ≠ .frameSize)
    (hrow : ∀ y, i ≠ .rowPointer y) (hpixel : ∀ x y, i ≠ .getPixel x y) (hload : ∀ a, i ≠ .fbLoad a)
    (hread : ∀ n, i ≠ .rdreg n) :
    ∀ k ∈ [WriteClass.answer, .frameSize, .start, .rollback], k ∉ writeClasses i := by
  cases i with
  | beginMode m => exact absurd rfl (hbegin m)
  | frameSize => exact absurd rfl hsize
  | rowPointer y => exact absurd rfl (hrow y)
  | getPixel x y => exact absurd rfl (hpixel x y)
  | fbLoad a => exact absurd rfl (hload a)
  | rdreg n => exact absurd rfl (hread n)
  | _ => simp

end

/-! ## How BEGIN and END end -/

/-- A sequence that goes on has gone through its first part. -/
theorem inOrder_append_eq_next {C : Config} {fs gs : List (State → Flow State)} {s t : State}
    (h : inOrder C (fs ++ gs) s = .next t) : ∃ u, inOrder C fs s = .next u ∧ inOrder C gs u = .next t := by
  induction fs generalizing s with
  | nil => exact ⟨s, rfl, h⟩
  | cons f fs ih =>
    rw [List.cons_append, inOrder_cons] at h
    obtain ⟨s1, hf, h⟩ := andThen_eq_next h
    obtain ⟨s2, hgap, h⟩ := andThen_eq_next h
    obtain ⟨u, hu, h⟩ := ih h
    exact ⟨u, by rw [inOrder_cons, hf, andThen_next, hgap, andThen_next, hu], h⟩

/-- After a register write and its gap. -/
theorem inOrder_assign_eq_next {C : Config} {f : State → State} {gs : List (State → Flow State)} {s t : State}
    (h : inOrder C (assign f :: gs) s = .next t) : ∃ u, AgentFrame (f s) u ∧ inOrder C gs u = .next t := by
  rw [inOrder_cons, assign_eq, andThen_next] at h
  obtain ⟨u, hgap, h⟩ := andThen_eq_next h
  exact ⟨u, (gap_step hgap).frame, h⟩

/-- A part that keeps a relation, where it goes on. -/
theorem Performs.of_next {α : Type} {R : State → State → Prop} {state : α → State} {s : State} {r : Flow α} {a : α}
    (h : Performs R state s r) (e : r = .next a) : R s (state a) := by
  subst e; exact h.keeps

/-- R222: a failing BEGIN stays in its STATE and leaves RESULT1 = 0. -/
theorem failBegin_eq_next {C : Config} {code : Word} {s t : State} (h : failBegin C code s = .next t) :
    t.stateReg = s.stateReg ∧ t.result1 = 0 := by
  refine ⟨((stateReg_rel (ks := failClasses) (by simp)).failBegin (fun _ hk => hk) code s).of_next h, ?_⟩
  obtain ⟨u, -, hu⟩ := inOrder_append_eq_next (fs := [_, _, _, _, _]) (gs := [_]) h
  obtain ⟨v, hreport, hdone⟩ := inOrder_assign_eq_next hu
  cases hdone
  exact hreport.result1

/-- R221 steps 5 to 8: BEGIN ends RUNNING, at line 0, with the mode it loaded, and leaves RESULT1 alone. -/
theorem finishBegin_eq_next {C : Config} {s t : State} (h : finishBegin C s = .next t) :
    t.stateReg = 1 ∧ t.line = 0 ∧ t.mode = s.mode ∧ t.result1 = s.result1 := by
  have hmode := ((mode_rel (ks := finishClasses) (by simp)).finishBegin (fun _ hk => hk) s).of_next h
  have hresult := ((result1_rel (ks := finishClasses) (by simp)).finishBegin (fun _ hk => hk) s).of_next h
  obtain ⟨u, -, hu⟩ := inOrder_append_eq_next (fs := [_, _]) (gs := [_, _]) h
  obtain ⟨v, hstart, hv⟩ := inOrder_assign_eq_next hu
  obtain ⟨w, hok, hdone⟩ := inOrder_assign_eq_next hv
  cases hdone
  exact ⟨hok.stateReg.trans hstart.stateReg, hok.line.trans hstart.line, hmode, hresult⟩

/-- R221 step 4 and what follows: BEGIN succeeds with the mode it has loaded, or fails. -/
theorem beginBuffer_eq_next {C : Config} {s t : State} (h : beginBuffer C s = .next t) :
    (t.stateReg = 1 ∧ t.line = 0 ∧ t.mode = s.mode ∧ t.result1 = s.result1)
    ∨ (t.stateReg = s.stateReg ∧ t.result1 = 0) := by
  have hwrite : PartFrame .allocate s (allocate C s) := (RegisterWrite.allocate (C := C) s).frame
  simp only [beginBuffer] at h
  split at h
  · cases h
  · split at h
    · obtain ⟨u, hgap, h⟩ := andThen_eq_next h
      have hframe := (gap_step hgap).frame
      obtain ⟨hstate, hline, hmode, hresult⟩ := finishBegin_eq_next h
      exact .inl ⟨hstate, hline, (hmode.trans hframe.mode).trans (hwrite.mode (by simp)),
        (hresult.trans hframe.result1).trans (hwrite.result1 (by simp))⟩
    · obtain ⟨u, hgap, h⟩ := andThen_eq_next h
      obtain ⟨hstate, hresult⟩ := failBegin_eq_next h
      exact .inr ⟨(hstate.trans (gap_step hgap).frame.stateReg).trans (hwrite.stateReg (by simp)), hresult⟩

/-- R221, R222: a BEGIN of a resolved mode that is not abandoned succeeds with the registers of the mode, or fails. -/
theorem beginWith_eq_next {C : Config} {m : ResolvedMode} {s t : State} (h : beginWith C m s = .next t) :
    (t.stateReg = 1 ∧ t.line = 0 ∧ t.mode = m.registers C ∧ t.result1 = s.result1)
    ∨ (t.stateReg = s.stateReg ∧ t.result1 = 0) := by
  obtain ⟨s2, hgap2, h⟩ := andThen_eq_next h
  obtain ⟨r, hclock, h⟩ := andThen_eq_next h
  obtain ⟨s3, hgap3, h⟩ := andThen_eq_next h
  have hframe2 := (gap_step hgap2).frame
  have hframe3 := (gap_step hgap3).frame
  have hmem : WriteClass.clock ∈ [WriteClass.clock] := List.mem_singleton_self _
  have hstate : s3.stateReg = s.stateReg := calc
    s3.stateReg = r.2.stateReg := hframe3.stateReg
    _ = s2.stateReg := ((stateReg_rel (by simp)).programClock hmem _ s2).of_next hclock
    _ = s.stateReg := hframe2.stateReg
  have hmode : s3.mode = m.registers C := calc
    s3.mode = r.2.mode := hframe3.mode
    _ = s2.mode := ((mode_rel (by simp)).programClock hmem _ s2).of_next hclock
    _ = m.registers C := hframe2.mode
  have hresult : s3.result1 = s.result1 := calc
    s3.result1 = r.2.result1 := hframe3.result1
    _ = s2.result1 := ((result1_rel (by simp)).programClock hmem _ s2).of_next hclock
    _ = s.result1 := hframe2.result1
  split at h
  · rw [← hmode, ← hresult, ← hstate]
    exact beginBuffer_eq_next h
  · exact .inr ((failBegin_eq_next h).imp_left fun hfail => hfail.trans hstate)

/-- BEGIN leaves IDLE only by succeeding with a resolved mode; where it fails, or is refused the mode, RESULT1 is 0;
and a RESET event in its gaps may abandon it (R221, R222, R280). -/
theorem beginMode_eq_next {C : Config} {mode : Byte} {s t : State} (h : beginMode C mode s = .next t) :
    s.idle = true
    ∧ ((∃ m, resolveMode C mode = some m ∧ t.stateReg = 1 ∧ t.line = 0 ∧ t.mode = m.registers C ∧ t.result1 = s.result1)
      ∨ (t.stateReg = s.stateReg ∧ t.result1 = 0)
      ∨ (¬ s.noReset ∧ ∃ u, t = resetEvent u)) := by
  simp only [beginMode] at h
  split at h
  · cases h
  · rename_i hidle
    refine ⟨by simpa using hidle, ?_⟩
    split at h
    · cases h; exact .inr (.inl ⟨rfl, rfl⟩)
    · rename_i m hm
      split at h
      · have hperforms := (shown_writeRel C (writeClasses (.beginMode mode))).beginWith (by simp) (by simp)
          (fun _ hk => .tail _ (.tail _ hk)) hm s
        rcases hperforms.settle_eq_next h with h | ⟨hreset, u, -, hu⟩
        · exact (beginWith_eq_next h).imp (fun hdone => ⟨m, hm, hdone⟩) .inl
        · exact .inr (.inr ⟨hreset, u, hu⟩)
      · cases h; exact .inr (.inl ⟨rfl, rfl⟩)

/-- END ends in IDLE (R223), in RUNNING by its last step; a RESET event in its gaps may abandon it (R280). -/
theorem endMode_eq_next {C : Config} {s t : State} (h : endMode C s = .next t) :
    (s.idle = true ∧ t = s) ∨ t.stateReg = 0 := by
  simp only [endMode] at h
  split at h
  · rename_i hidle; cases h; exact .inl ⟨hidle, rfl⟩
  · have hperforms := (shown_writeRel C (writeClasses .endMode)).endSteps (by simp) (by simp) (by simp) (by simp) s
    rcases hperforms.settle_eq_next h with hend | ⟨-, u, -, rfl⟩
    · obtain ⟨u, -, hu⟩ := inOrder_append_eq_next (fs := [_, _, _, _, _]) (gs := [_]) hend
      obtain ⟨v, hlast, hdone⟩ := inOrder_assign_eq_next hu
      cases hdone
      exact .inr hlast.stateReg
    · exact .inr rfl

theorem running_of_stateReg_one {s : State} (h : s.stateReg = 1) : s.running = true := by
  simp [State.running, State.st, h]

theorem not_running_of_idle {s : State} (h : s.idle = true) : s.running = false := by
  have hst : s.st = 0 := by simpa [State.idle] using h
  simp [State.running, hst]

/-- Settles O17: each register is written by named parts only, and the operations not named have none of them; a BEGIN
that is not abandoned ends RUNNING with RESULT1 as it was, or in IDLE with RESULT1 = 0. -/
theorem onlyNamedOperationsWriteRegisters : Obligations.OnlyNamedOperationsWriteRegisters := by
  unfold Obligations.OnlyNamedOperationsWriteRegisters
  intro i s t hs h
  refine ⟨fun hbegin hend => ⟨?stateReg, ?mode, fun htick => ?line, fun htweak => ?shift⟩, fun hbegin hsize => ?result1,
    ?begins, fun hbegin hsize hrow hpixel hload hread => ?result0⟩
  case stateReg => exact exec_keeps_of_noReset (stateReg_rel (stateReg_not_mem_writeClasses hbegin hend)) hs h
  case mode => exact exec_keeps_of_noReset (mode_rel (mode_not_mem_writeClasses hbegin hend)) hs h
  case line => exact exec_keeps_of_noReset (line_rel (line_not_mem_writeClasses hbegin hend htick)) hs h
  case shift => exact exec_keeps_of_noReset (shift_rel (shift_not_mem_writeClasses hbegin hend htweak)) hs h
  case result1 => exact exec_keeps_of_noReset (result1_rel (result1_not_mem_writeClasses hbegin hsize)) hs h
  case result0 =>
    exact exec_keeps_of_noReset (result0_rel (result0_not_mem_writeClasses hbegin hsize hrow hpixel hload hread)) hs h
  case begins =>
    rintro mode rfl
    obtain ⟨hidle, ⟨m, -, hstate, -, -, hresult⟩ | ⟨hstate, hresult⟩ | ⟨hreset, -⟩⟩ := beginMode_eq_next h
    · rw [running_of_stateReg_one hstate, if_pos rfl, hresult]
    · have hrun : t.running = false := by
        have hsame : t.running = s.running := by simp only [State.running, State.st, hstate]
        rw [hsame, not_running_of_idle hidle]
      simp [hrun, hresult]
    · exact absurd hs hreset

/-! ## The host's view of memory -/

/-- The agents move bytes from CACHE to MEM and read MEM: the host sees what it saw (R80 to R84). -/
theorem hostByte_rel (C : Config) (a : Nat) : AgentRel C (fun s t => hostByte C t a = hostByte C s a) where
  refl := fun _ => rfl
  trans := fun _ _ _ hst htu => htu.trans hst
  timer := fun s => by
    rcases timerClock_cases s with ⟨-, h⟩ | ⟨-, h⟩
    · rw [h]
    · rw [h]; rfl
  lock := fun s => by simp only [lockPll]; split <;> rfl
  pixel := fun s => by
    simp only [pixelClock]
    split
    · split
      · rfl
      · split
        · rfl
        · split <;> rfl
    · rfl
  write := fun x s => hostByte_writeBack C x a s
  draw := fun _ _ => rfl
  finish := fun c bytes s => by cases c <;> rfl
  schedule := fun _ _ _ _ => rfl

/-- Of the register writes only a host store and an allocation change what the host sees. -/
theorem RegisterWrite.hostByte {C : Config} {k : WriteClass} {s t : State} (hw : RegisterWrite C k s t)
    (hk : k ∉ [.store, .allocate]) (a : Nat) : hostByte C t a = hostByte C s a := by
  cases hw with
  | store | allocate => simp at hk
  | tweakShift _ delta =>
    rcases tweakShift_cases C delta s with e | ⟨v, -, e⟩
    · rw [e]
    · rw [e]; rfl
  | tweakClock _ num denom =>
    rcases tweakClock_cases num denom s with e | ⟨n, d, -, e⟩
    · rw [e]
    · rw [e]; rfl
  | geometry _ c d hdcsr => cases c <;> rfl
  | control _ c i v hi => cases c <;> rfl
  | stream _ c => cases c <;> rfl
  | _ => rfl

/-- Settles O18: the operations not named have no part that stores or allocates. -/
theorem onlyHostWritesPixels : Obligations.OnlyHostWritesPixels := by
  unfold Obligations.OnlyHostWritesPixels
  intro i s t hs h hbegin halloc hpixel hstore hnative hpal8 hrgb a
  have hi : ∀ k ∈ writeClasses i, k ∉ [WriteClass.store, .allocate] := by
    cases i with
    | beginMode m => exact absurd rfl (hbegin m)
    | fbAlloc => exact absurd rfl halloc
    | setPixel x y v => exact absurd rfl (hpixel x y v)
    | fbStore v a => exact absurd rfl (hstore v a)
    | writeRowNative y n p => exact absurd rfl (hnative y n p)
    | writeRowPal8 y n p => exact absurd rfl (hpal8 y n p)
    | writeRowRgb565 y n p => exact absurd rfl (hrgb y n p)
    | _ => simp
  exact exec_keeps_of_noReset ⟨hostByte_rel _ a, fun hk hw => hw.hostByte (hi _ hk) a⟩ hs h

end Sys2Proof.Machine
end

section
/-! A resolved mode and its registers (spec/40_mode_resolver.md R123, spec/10_state.md R25, R27): what the checks of
MODE_RESOLVE give, what a register holds of a number (notes/assumptions/3.md), and the invariants of the mode, LINE and
STATE that follow (R21, R23). -/

namespace Sys2Proof

theorem toNat_ofNat_of_lt {n : Nat} (hn : n < 2 ^ 32) : (BitVec.ofNat 32 n).toNat = n := by
  rw [BitVec.toNat_ofNat, Nat.mod_eq_of_lt hn]

/-- A number that the register may hold stands in it. -/
theorem Config.held_of_le (C : Config) {register : Byte} {least most v : Nat} (hmost : most < 2 ^ 32) (hv : v ≤ most) :
    (C.held register least most v).toNat = v := by
  rw [Config.held, if_pos hv, toNat_ofNat_of_lt (by omega)]

/-- Whatever is written, the register obeys its laws. -/
theorem Config.held_bounds (C : Config) {register : Byte} {least most v : Nat} (hmost : most < 2 ^ 32)
    (hleast : least ≤ most) (hv : least ≤ v) :
    least ≤ (C.held register least most v).toNat ∧ (C.held register least most v).toNat ≤ most := by
  by_cases hle : v ≤ most
  · rw [C.held_of_le hmost hle]; exact ⟨hv, hle⟩
  · obtain ⟨hlo, hhi⟩ := clamp_bounds (C.oversize register v).toNat hleast
    rw [Config.held, if_neg hle, toNat_ofNat_of_lt (by omega)]
    exact ⟨hlo, hhi⟩

end Sys2Proof

namespace Sys2Proof.Machine

/-! ## What resolving gives -/

/-- A mode resolves where the table has an entry that passes the checks. -/
theorem resolveMode_eq_some {C : Config} {mode : Byte} {m : ResolvedMode} (h : resolveMode C mode = some m) :
    ∃ e, C.modeTable mode = some e ∧ entrySupported C e = true ∧ m = videoModeOf C mode e := by
  simp only [resolveMode] at h
  split at h
  · cases h
  · rename_i e htable
    split at h
    · rename_i hsupported; cases h; exact ⟨e, htable, hsupported, rfl⟩
    · cases h

theorem visibleLines_eq (m : ResolvedMode) : m.visibleLines = m.height * (if m.ld then 2 else 1) := rfl

/-- R27, R123: the laws that the numbers of a resolved mode obey. -/
structure ResolvedLaws (C : Config) (mode : Byte) (m : ResolvedMode) : Prop where
  modeId : m.modeId = mode
  inTable : (C.modeTable mode).isSome = true
  stride : m.stride = m.lborder + m.width + m.rborder
  granular : m.stride % m.gran = 0
  gran : m.gran = if m.combine then 8 else 4
  lines : m.topBlank + m.visibleLines ≤ m.totalLines
  width_pos : 1 ≤ m.width
  height_pos : 1 ≤ m.height
  clkdivN_pos : 1 ≤ m.clkdivN
  clkdivD_pos : 1 ≤ m.clkdivD
  shift0 : m.shift0 ≤ C.shiftMax
  stride_le : m.stride ≤ 65535
  height_le : m.height ≤ 32767
  buffer : m.stride * m.height + C.fbPad < 2 ^ 32

theorem resolvedLaws_of_resolveMode {C : Config} {mode : Byte} {m : ResolvedMode} (h : resolveMode C mode = some m) :
    ResolvedLaws C mode m := by
  obtain ⟨e, htable, hsupported, rfl⟩ := resolveMode_eq_some h
  simp only [entrySupported, Bool.and_eq_true, decide_eq_true_eq] at hsupported
  obtain ⟨⟨⟨⟨⟨⟨hN, hD, hwidth, hheight⟩, hgranular⟩, hshift⟩, hlines⟩, hstride, -, hheight'⟩, hbuffer⟩ := hsupported
  exact
    { modeId := rfl
      inTable := by rw [htable]; rfl
      stride := rfl
      granular := hgranular
      gran := rfl
      lines := hlines
      width_pos := Nat.one_le_iff_ne_zero.2 hwidth
      height_pos := Nat.one_le_iff_ne_zero.2 hheight
      clkdivN_pos := Nat.one_le_iff_ne_zero.2 hN
      clkdivD_pos := Nat.one_le_iff_ne_zero.2 hD
      shift0 := hshift
      stride_le := hstride
      height_le := hheight'
      buffer := hbuffer }

/-! ## What the registers hold -/

theorem heldTopBlank_of_fits {C : Config} {m : ResolvedMode} (hfits : m.topBlank + m.visibleLines < 2 ^ 32) :
    (m.heldTopBlank C).toNat = m.topBlank :=
  C.held_of_le (by simp only [largestWord]; omega) (by simp only [largestWord]; omega)

theorem heldTopBlank_le {C : Config} {m : ResolvedMode} :
    (m.heldTopBlank C).toNat ≤ largestWord - m.visibleLines :=
  (C.held_bounds (by simp only [largestWord]; omega) (Nat.zero_le _) (Nat.zero_le _)).2

theorem heldTotalLines_of_fits {C : Config} {m : ResolvedMode} (hfits : m.totalLines < 2 ^ 32) :
    (m.heldTotalLines C).toNat = m.totalLines :=
  C.held_of_le (by decide) (by simp only [largestWord]; omega)

section
variable {C : Config} {mode : Byte} {m : ResolvedMode} (h : ResolvedLaws C mode m)
include h

theorem ResolvedLaws.visibleLines_bounds : 1 ≤ m.visibleLines ∧ m.visibleLines ≤ 65534 := by
  have hpos := h.height_pos
  have hle := h.height_le
  rw [visibleLines_eq]
  split <;> omega

theorem ResolvedLaws.width_le : m.width ≤ m.stride := by have := h.stride; omega

theorem ResolvedLaws.totalLines_pos : 1 ≤ m.totalLines := by
  have := h.visibleLines_bounds; have := h.lines; omega

/-- R27 (e) holds of the registers, whatever the numbers are. -/
theorem ResolvedLaws.held_lines : (m.heldTopBlank C).toNat + m.visibleLines ≤ (m.heldTotalLines C).toNat := by
  have hvisible := h.visibleLines_bounds
  have hlines := h.lines
  have htop := heldTopBlank_le (C := C) (m := m)
  by_cases hfits : m.totalLines < 2 ^ 32
  · rw [heldTotalLines_of_fits hfits, heldTopBlank_of_fits (by omega)]
    exact hlines
  · simp only [largestWord] at htop
    refine (C.held_bounds (by decide) ?_ ?_).1
    · simp only [largestWord]; omega
    · omega

theorem ResolvedLaws.clkdivN_held : 1 ≤ (C.held 0x16 1 largestWord m.clkdivN).toNat :=
  (C.held_bounds (by decide) (by decide) h.clkdivN_pos).1

theorem ResolvedLaws.clkdivD_held : 1 ≤ (C.held 0x17 1 largestWord m.clkdivD).toNat :=
  (C.held_bounds (by decide) (by decide) h.clkdivD_pos).1

end

theorem registers_modeId_toNat (C : Config) (m : ResolvedMode) : (m.registers C).modeId.toNat = m.modeId.toNat := by
  show (zextByte m.modeId).toNat = _
  rw [zextByte, BitVec.toNat_setWidth]
  omega

theorem registers_ld (C : Config) (m : ResolvedMode) : (m.registers C).ld = m.ld := by
  show getFlag (setFlag (setFlag 0 0 m.ld) 1 m.combine) 0 = m.ld
  rw [getFlag_setFlag_ne _ _ _ _ (by decide) (by decide), getFlag_setFlag_same _ _ _ (by decide)]

theorem registers_combine (C : Config) (m : ResolvedMode) : (m.registers C).combine = m.combine :=
  getFlag_setFlag_same _ _ _ (by decide)

/-- The registers whose numbers the checks of R123 bound hold them. -/
structure RegistersHold (m : ResolvedMode) (r : VideoMode) : Prop where
  width : r.width.toNat = m.width
  height : r.height.toNat = m.height
  stride : r.stride.toNat = m.stride
  lborder : r.lborder.toNat = m.lborder
  rborder : r.rborder.toNat = m.rborder
  gran : r.gran.toNat = m.gran

theorem ResolvedLaws.registersHold {C : Config} {mode : Byte} {m : ResolvedMode} (h : ResolvedLaws C mode m) :
    RegistersHold m (m.registers C) := by
  have hstride := h.stride
  have hstride_le := h.stride_le
  have hheight_le := h.height_le
  have hgran : m.gran < 2 ^ 32 := by rw [h.gran]; split <;> decide
  exact
    { width := toNat_ofNat_of_lt (by omega)
      height := toNat_ofNat_of_lt (by omega)
      stride := toNat_ofNat_of_lt (by omega)
      lborder := toNat_ofNat_of_lt (by omega)
      rborder := toNat_ofNat_of_lt (by omega)
      gran := toNat_ofNat_of_lt hgran }

theorem ResolvedLaws.shift0_held {C : Config} {mode : Byte} {m : ResolvedMode} (h : ResolvedLaws C mode m)
    (hlegal : C.Legal) : (m.registers C).shift0.toNat = m.shift0 := by
  have hshift := h.shift0
  have hpad := hlegal.fbPad_ge
  have hbuffer := h.buffer
  exact toNat_ofNat_of_lt (by omega)

/-- Settles O20: the checks of R123 bound every number but four, and the registers of those four are held to their
laws. -/
theorem resolvedModeIsLegal : Obligations.ResolvedModeIsLegal := by
  unfold Obligations.ResolvedModeIsLegal
  intro C mode m hm
  have h := resolvedLaws_of_resolveMode hm
  have hold := h.registersHold
  refine ⟨⟨h.stride, h.width_le, h.granular, h.gran, h.lines, h.width_pos, h.height_pos, h.clkdivN_pos, h.clkdivD_pos,
    h.totalLines_pos, h.shift0, h.buffer⟩, ?_⟩
  have hlines : (m.registers C).topBlank.toNat + (m.registers C).height.toNat * (if (m.registers C).ld then 2 else 1)
      ≤ (m.registers C).totalLines.toNat := by
    rw [hold.height, registers_ld]; exact h.held_lines
  refine ⟨by rw [registers_modeId_toNat, h.modeId], hold.width, hold.height, hold.stride, registers_ld C m,
    registers_combine C m, hold.lborder, hold.rborder, hold.gran, h.shift0_held, ?_, ?_, heldTotalLines_of_fits,
    heldTopBlank_of_fits, h.clkdivN_held, h.clkdivD_held, ?_, hlines⟩
  · exact fun hfits => C.held_of_le (by decide) (by simp only [largestWord]; omega)
  · exact fun hfits => C.held_of_le (by decide) (by simp only [largestWord]; omega)
  · exact (Nat.le_trans h.visibleLines_bounds.1 (Nat.le_add_left _ _)).trans h.held_lines

/-! ## STATE, the mode and LINE in every step (R21, R23, R25, R27) -/

/-- The registers of a resolved mode are legal. -/
theorem ResolvedLaws.modeLegal {C : Config} {mode : Byte} {m : ResolvedMode} (h : ResolvedLaws C mode m)
    (hlegal : C.Legal) {s : State} (hs : s.mode = m.registers C) : modeLegal C s := by
  have hold := h.registersHold
  intro _
  rw [hs]
  refine ⟨⟨mode, ?_, h.inTable⟩, ?_, ?_, ?_, ?_, ?_, ?_, ?_, ?_, h.clkdivN_held, h.clkdivD_held, ?_⟩
  · show zextByte m.modeId = zextByte mode
    rw [h.modeId]
  · rw [hold.stride, hold.lborder, hold.width, hold.rborder]; exact h.stride
  · rw [hold.width, hold.stride]; exact h.width_le
  · rw [hold.stride, hold.gran]; exact h.granular
  · rw [registers_combine]
    show BitVec.ofNat 32 m.gran = _
    rw [h.gran]
    split <;> rfl
  · rw [hold.height, registers_ld]; exact h.held_lines
  · rw [hold.width]; exact h.width_pos
  · rw [hold.height]; exact h.height_pos
  · rw [h.shift0_held hlegal]; exact h.shift0
  · exact (Nat.le_trans h.visibleLines_bounds.1 (Nat.le_add_left _ _)).trans h.held_lines

/-- The three invariants of O13, which support each other. -/
structure ControllerLegal (C : Config) (s : State) : Prop where
  controller : legalController s
  mode : modeLegal C s
  line : lineInRange s

/-- In IDLE they ask nothing of the mode and LINE. -/
theorem ControllerLegal.of_idle {C : Config} {s : State} (h : s.stateReg = 0) : ControllerLegal C s := by
  have hrun : s.running = false := by simp [State.running, State.st, h]
  exact ⟨.inl h, fun e => by simp [hrun] at e, fun e => by simp [hrun] at e⟩

/-- They depend on STATE, the mode and LINE alone. -/
theorem ControllerLegal.congr {C : Config} {s t : State} (h : ControllerLegal C s) (hstate : t.stateReg = s.stateReg)
    (hmode : t.mode = s.mode) (hline : s.running = true → t.line.toNat < s.mode.totalLines.toNat) :
    ControllerLegal C t := by
  have hrun : t.running = s.running := by simp only [State.running, State.st, hstate]
  refine ⟨?_, fun e => ?_, fun e => ?_⟩
  · simpa only [legalController, hstate] using h.controller
  · rw [hmode]; exact h.mode (hrun ▸ e)
  · rw [hmode]; exact hline (hrun ▸ e)

/-- No part but those that load, start, roll back or stop a mode breaks them: LINE_TICK counts LINE modulo
TOTAL_LINES. -/
theorem controllerLegal_rel {C : Config} {ks : List WriteClass} (hstate : ∀ k ∈ [WriteClass.start, .stop], k ∉ ks)
    (hmode : ∀ k ∈ [WriteClass.load, .rollback, .stop], k ∉ ks) :
    WriteRel C ks (fun s t => ControllerLegal C s → ControllerLegal C t) := by
  refine ⟨agentRel_of_frame_imp C fun s t hf h => ?_, fun {k s t} hk hw h => ?_⟩
  · exact h.congr hf.stateReg hf.mode fun hrun => by rw [hf.line]; exact h.line hrun
  · have hstate' := (stateReg_rel (C := C) hstate).writes hk hw
    have hmode' := (mode_rel (C := C) hmode).writes hk hw
    have hline := hw.frame.line
    refine h.congr hstate' hmode' fun hrun => ?_
    cases hw with
    | line =>
      obtain ⟨-, -, -, -, -, -, -, -, -, -, -, hpos⟩ := h.mode hrun
      have hlt := Nat.mod_lt (s.line.toNat + 1) (Nat.lt_of_succ_le hpos)
      show (BitVec.ofNat 32 ((s.line.toNat + 1) % s.mode.totalLines.toNat)).toNat < _
      rw [BitVec.toNat_ofNat]
      exact (Nat.mod_le _ _).trans_lt hlt
    | startTimer | ok => exact absurd hk (hstate _ (by simp))
    | stopTimer | clearRegisters | enterIdle => exact absurd hk (hstate _ (by simp))
    | compareFlags | frameStart => exact h.line hrun
    | _ => rw [hline (by simp)]; exact h.line hrun

theorem controllerLegal_resetEvent (C : Config) (s : State) : ControllerLegal C (resetEvent s) := .of_idle rfl

/-- BEGIN goes from IDLE to RUNNING with a resolved mode at line 0, or stays in IDLE. -/
theorem beginMode_controllerLegal {C : Config} (hlegal : C.Legal) {mode : Byte} {s t : State}
    (hs : ControllerLegal C s) (h : beginMode C mode s = .next t) : ControllerLegal C t := by
  obtain ⟨hidle, ⟨m, hm, hstate, hline, hmode, -⟩ | ⟨hstate, -⟩ | ⟨-, u, rfl⟩⟩ := beginMode_eq_next h
  · have hlaws := resolvedLaws_of_resolveMode hm
    have hmodeLegal := hlaws.modeLegal hlegal hmode
    refine ⟨.inr hstate, hmodeLegal, fun hrun => ?_⟩
    obtain ⟨-, -, -, -, -, -, -, -, -, -, -, hpos⟩ := hmodeLegal hrun
    rw [hline]
    exact hpos
  · refine .of_idle (hstate.trans ?_)
    rcases hs.controller with hzero | hone
    · exact hzero
    · have hrun := running_of_stateReg_one hone
      rw [not_running_of_idle hidle] at hrun
      cases hrun
  · exact controllerLegal_resetEvent C u

theorem exec_controllerLegal {i : Instr} {s t : State} (hs : ControllerLegal Config.chip s)
    (h : exec i s = .next t) : ControllerLegal Config.chip t := by
  by_cases hbegin : ∃ mode, i = .beginMode mode
  · obtain ⟨mode, rfl⟩ := hbegin
    exact beginMode_controllerLegal Config.chip_legal hs h
  · by_cases hend : i = .endMode
    · subst hend
      rcases endMode_eq_next h with ⟨-, rfl⟩ | hidle
      · exact hs
      · exact .of_idle hidle
    · have hbegin' : ∀ mode, i ≠ .beginMode mode := fun mode e => hbegin ⟨mode, e⟩
      rcases exec_keeps (controllerLegal_rel (stateReg_not_mem_writeClasses hbegin' hend)
        (mode_not_mem_writeClasses hbegin' hend)) h with hst | ⟨u, -, rfl⟩
      · exact hst hs
      · exact controllerLegal_resetEvent _ u

/-- Settles O13: BEGIN loads a legal mode before it is RUNNING, END is IDLE before another operation runs, and no other
operation writes STATE or the mode. -/
theorem stepKeepsModeLegal : Obligations.StepKeepsModeLegal := by
  unfold Obligations.StepKeepsModeLegal
  intro s t hcontroller hmode hline h
  have ht : ControllerLegal Config.chip t :=
    step_keeps (R := fun s t => ControllerLegal Config.chip s → ControllerLegal Config.chip t)
      (fun _ _ _ hst htu h => htu (hst h)) (fun _ _ _ _ hs => hs.congr rfl rfl hs.line)
      (fun _ _ _ e hs => exec_controllerLegal hs e) (fun s _ => controllerLegal_resetEvent _ s) h
      ⟨hcontroller, hmode, hline⟩
  exact ⟨ht.controller, ht.mode, ht.line⟩

end Sys2Proof.Machine
end

section
/-! SHIFT, the clock program and the frame buffer in every step (spec/10_state.md R26, R28, R32). SHIFT and the buffer
are legal after every register write. NUM may stand above a new DENOM inside CLK_PROGRAM, whose writes are therefore
taken together: it ends with the program of the search (R142, R143). -/

namespace Sys2Proof.Machine

/-! ## SHIFT and the frame buffer -/

theorem shiftInRange_rel (C : Config) (ks : List WriteClass) :
    WriteRel C ks (fun s t => shiftInRange C s → shiftInRange C t) := by
  refine ⟨agentRel_of_frame_imp C fun s t hf h => by rw [shiftInRange, hf.shift]; exact h, fun {k s t} hk hw h => ?_⟩
  have hsame := hw.frame.shift
  cases hw with
  | tweakShift _ delta =>
    rcases tweakShift_cases C delta s with e | ⟨v, hv, e⟩ <;> rw [e]
    · exact h
    · exact hv
  | tweakClock _ num denom => rcases tweakClock_cases num denom s with e | ⟨n, d, -, e⟩ <;> rw [e] <;> exact h
  | load _ mode m hm =>
    have hle := (resolvedLaws_of_resolveMode hm).shift0
    show (BitVec.ofNat 32 m.shift0).toNat ≤ C.shiftMax
    rw [BitVec.toNat_ofNat]
    exact (Nat.mod_le _ _).trans hle
  | clearMode => exact Nat.zero_le _
  | clearRegisters => exact Nat.zero_le _
  | clearDescriptors | failure | stopTimer | enterIdle => exact h
  | _ => rw [shiftInRange, hsame (by simp)]; exact h

/-- What the registers hold of a grant is aligned and fits. -/
theorem granted_aligned_fits {align a size : Nat} (halign : a % align = 0) (hfit : a + size ≤ 2 ^ 32) :
    (BitVec.ofNat 32 a).toNat % align = 0 ∧ (BitVec.ofNat 32 a).toNat + (BitVec.ofNat 32 size).toNat ≤ 2 ^ 32 := by
  rw [BitVec.toNat_ofNat, BitVec.toNat_ofNat]
  have hsize := Nat.mod_le size (2 ^ 32)
  by_cases ha : a < 2 ^ 32
  · rw [Nat.mod_eq_of_lt ha]
    exact ⟨halign, by omega⟩
  · have htop : a = 2 ^ 32 := by omega
    rw [htop, Nat.mod_self, Nat.zero_mod]
    exact ⟨rfl, by omega⟩

/-- A grant is aligned and fits; a freed buffer is not allocated. -/
theorem bufferLegal_rel (C : Config) (ks : List WriteClass) :
    WriteRel C ks (fun s t => bufferLegal C s → bufferLegal C t) := by
  refine ⟨agentRel_of_frame_imp C fun s t hf h => ?_, fun {k s t} hk hw h => ?_⟩
  · simpa only [bufferLegal, State.fbValid, hf.fb] using h
  · cases hw with
    | allocate =>
      rcases allocate_cases C s with e | ⟨a, halign, hfit, e⟩ <;> rw [e]
      · exact h
      · exact fun _ => granted_aligned_fits halign hfit
    | release =>
      intro hvalid
      rw [show (release s).fbValid = false from getFlag_setFlag_same _ _ _ (by decide)] at hvalid
      cases hvalid
    | tweakShift _ delta => rcases tweakShift_cases C delta s with e | ⟨v, hv, e⟩ <;> rw [e] <;> exact h
    | tweakClock _ num denom => rcases tweakClock_cases num denom s with e | ⟨n, d, -, e⟩ <;> rw [e] <;> exact h
    | geometry _ c d hdcsr => cases c <;> exact h
    | control _ c i v hi => cases c <;> exact h
    | stream _ c => cases c <;> exact h
    | _ => exact h

/-! ## The clock program -/

/-- R142: the search answers a reachable program. -/
theorem clkSearch_bounds {C : Config} (hlegal : C.Legal) (target : Nat) :
    C.divMin ≤ (clkSearch C target).1 ∧ (clkSearch C target).1 ≤ C.divMax ∧ (clkSearch C target).2 < C.denom0 := by
  have hpos : 0 < C.denom0 := hlegal.denom0_pos
  have horder : C.divMin * C.denom0 ≤ C.divMax * C.denom0 := Nat.mul_le_mul_right _ hlegal.divMin_le
  have hlo : C.divMin * C.denom0 ≤ searchK C target := by simp only [searchK]; omega
  have hhi : searchK C target < (C.divMax + 1) * C.denom0 := by
    rw [Nat.add_mul, Nat.one_mul]; simp only [searchK]; omega
  exact ⟨(Nat.le_div_iff_mul_le hpos).2 hlo, Nat.lt_succ_iff.1 ((Nat.div_lt_iff_lt_mul hpos).2 hhi),
    Nat.mod_lt _ hpos⟩

/-- The registers hold the program of the search for `target`. -/
structure ClockProgrammed (C : Config) (target : Nat) (s : State) : Prop where
  div : s.pll.div = BitVec.ofNat 32 (clkSearch C target).1
  num : s.pll.num = BitVec.ofNat 32 (clkSearch C target).2
  denom : s.pll.denom = BitVec.ofNat 32 C.denom0

theorem ClockProgrammed.of_frame {C : Config} {target : Nat} {s t : State} (h : ClockProgrammed C target s)
    (hf : AgentFrame s t) : ClockProgrammed C target t :=
  ⟨hf.pllDiv.trans h.div, hf.pllNum.trans h.num, hf.pllDenom.trans h.denom⟩

theorem ClockProgrammed.pllLegal {C : Config} (hlegal : C.Legal) {target : Nat} {s : State}
    (h : ClockProgrammed C target s) : pllLegal C s := by
  obtain ⟨hlo, hhi, hnum⟩ := clkSearch_bounds hlegal target
  have hmax := hlegal.divMax_lt
  have hdenom := hlegal.denom0_lt
  refine ⟨?_, fun _ => ?_⟩
  · rw [h.num, h.denom, toNat_ofNat_of_lt (by omega), toNat_ofNat_of_lt hdenom]; exact hnum
  · rw [h.div, toNat_ofNat_of_lt (by omega)]; exact ⟨hlo, hhi⟩

/-- R143: CLK_PROGRAM's writes, whatever happens in the gaps between them, end with the program of the search. -/
theorem writeClockProgram_programmed {C : Config} {target : Nat} {s t : State}
    (h : inOrder C (writeClockProgram C target) s = .next t) : ClockProgrammed C target t := by
  obtain ⟨s1, -, h⟩ := inOrder_assign_eq_next h
  obtain ⟨s2, hdiv, h⟩ := inOrder_assign_eq_next h
  obtain ⟨s3, hdenom, h⟩ := inOrder_assign_eq_next h
  obtain ⟨s4, hnum, h⟩ := inOrder_assign_eq_next h
  obtain ⟨s5, henable, h⟩ := inOrder_assign_eq_next h
  cases h
  exact
    { div := henable.pllDiv.trans (hnum.pllDiv.trans (hdenom.pllDiv.trans hdiv.pllDiv))
      num := henable.pllNum.trans hnum.pllNum
      denom := henable.pllDenom.trans (hnum.pllDenom.trans hdenom.pllDenom) }

theorem programClock_programmed {C : Config} {target : Nat} {s : State} {r : Bool × State}
    (h : programClock C target s = .next r) : ClockProgrammed C target r.2 := by
  obtain ⟨s1, hwrites, h⟩ := andThen_eq_next h
  obtain ⟨hdiv, hnum, hdenom⟩ := writeClockProgram_programmed hwrites
  have hpoll := (agentStep_rel C).pollLock (C.lockTimeout - 1) (drawLock C s1)
  rw [h] at hpoll
  exact ClockProgrammed.of_frame (s := drawLock C s1) ⟨hdiv, hnum, hdenom⟩ hpoll.frame

theorem pllLegal_of_off {C : Config} {s : State} (h : s.pll = Pll.off) : pllLegal C s := by
  have hdisabled : s.pllEnabled = false := by simp [State.pllEnabled, h, Pll.off, getFlag]
  refine ⟨by rw [h]; decide, fun henabled => ?_⟩
  rw [hdisabled] at henabled
  cases henabled

/-- No register write but CLK_PROGRAM's breaks the law of the clock program. -/
theorem pllLegal_rel {C : Config} {ks : List WriteClass} (hks : .clock ∉ ks) :
    WriteRel C ks (fun s t => pllLegal C s → pllLegal C t) := by
  refine ⟨agentRel_of_frame_imp C fun s t hf h => ?_, fun {k s t} hk hw h => ?_⟩
  · simpa only [pllLegal, hf.pllNum, hf.pllDenom, hf.pllDiv, hf.pllEnabled] using h
  · cases hw with
    | program | pllLock | pllEnable => exact absurd hk hks
    | tweakShift _ delta => rcases tweakShift_cases C delta s with e | ⟨v, hv, e⟩ <;> rw [e] <;> exact h
    | tweakClock _ num denom =>
      rcases tweakClock_cases num denom s with e | ⟨n, d, hlt, e⟩ <;> rw [e]
      · exact h
      · exact ⟨hlt, h.2⟩
    | allocate => rcases allocate_cases C s with e | ⟨a, -, -, e⟩ <;> rw [e] <;> exact h
    | geometry _ c d hdcsr => cases c <;> exact h
    | control _ c i v hi => cases c <;> exact h
    | stream _ c => cases c <;> exact h
    | pllOff => exact pllLegal_of_off rfl
    | _ => exact h

theorem pllLegal_resetEvent (C : Config) (s : State) : pllLegal C (resetEvent s) := pllLegal_of_off rfl

/-- BEGIN and CLK_PROGRAM end with the program of the search, or with the PLL off. -/
theorem beginWith_pllLegal {C : Config} (hlegal : C.Legal) {m : ResolvedMode} {s t : State}
    (h : beginWith C m s = .next t) : pllLegal C t := by
  obtain ⟨s2, -, h⟩ := andThen_eq_next h
  obtain ⟨r, hclock, h⟩ := andThen_eq_next h
  obtain ⟨s3, hgap, h⟩ := andThen_eq_next h
  have hs3 : pllLegal C s3 :=
    ((programClock_programmed hclock).of_frame (gap_step hgap).frame).pllLegal hlegal
  split at h
  · exact ((pllLegal_rel (by simp)).beginBuffer (ks := bufferClasses) (fun _ hk => hk) s3).of_next h hs3
  · exact ((pllLegal_rel (by simp)).failBegin (ks := failClasses) (fun _ hk => hk) _ s3).of_next h hs3

theorem beginMode_pllLegal {C : Config} (hlegal : C.Legal) {mode : Byte} {s t : State} (hs : pllLegal C s)
    (h : beginMode C mode s = .next t) : pllLegal C t := by
  simp only [beginMode] at h
  split at h
  · cases h
  · split at h
    · cases h; exact hs
    · rename_i m hm
      split at h
      · have hperforms := (shown_writeRel C (writeClasses (.beginMode mode))).beginWith (by simp) (by simp)
          (fun _ hk => .tail _ (.tail _ hk)) hm s
        rcases hperforms.settle_eq_next h with h | ⟨-, u, -, rfl⟩
        · exact beginWith_pllLegal hlegal h
        · exact pllLegal_resetEvent C u
      · cases h; exact hs

theorem clkProgram_pllLegal {C : Config} (hlegal : C.Legal) {target : Word} {s t : State} (hs : pllLegal C s)
    (h : clkProgram C target s = .next t) : pllLegal C t := by
  simp only [clkProgram] at h
  split at h
  · have hrel := shown_writeRel C [.clock]
    have hperforms := hrel.andThen (hrel.programClock (by simp) target.toNat s) fun r _ => hrel.stay r.2
    rcases hperforms.settle_eq_next h with h | ⟨-, u, -, rfl⟩
    · obtain ⟨r, hclock, h⟩ := andThen_eq_next h
      cases h
      exact (programClock_programmed hclock).pllLegal hlegal
    · exact pllLegal_resetEvent C u
  · cases h; exact hs

theorem exec_pllLegal {i : Instr} {s t : State} (hs : pllLegal Config.chip s) (h : exec i s = .next t) :
    pllLegal Config.chip t := by
  have hother (hclock : .clock ∉ writeClasses i) : pllLegal Config.chip t := by
    rcases exec_keeps (pllLegal_rel hclock) h with hst | ⟨u, -, rfl⟩
    · exact hst hs
    · exact pllLegal_resetEvent _ u
  cases i with
  | beginMode mode => exact beginMode_pllLegal Config.chip_legal hs h
  | clkProgram target => exact clkProgram_pllLegal Config.chip_legal hs h
  | _ => exact hother (by simp)

/-! ## The three invariants of O14 -/

/-- SHIFT, the clock program and the frame buffer in their ranges. -/
structure RangesLegal (C : Config) (s : State) : Prop where
  shift : shiftInRange C s
  pll : pllLegal C s
  buffer : bufferLegal C s

theorem RangesLegal.resetEvent (C : Config) (s : State) : RangesLegal C (resetEvent s) :=
  ⟨Nat.zero_le _, pllLegal_resetEvent C s, fun hvalid => by simp [State.fbValid, getFlag, FrameBuffer.none] at hvalid⟩

theorem exec_rangesLegal {i : Instr} {s t : State} (hs : RangesLegal Config.chip s) (h : exec i s = .next t) :
    RangesLegal Config.chip t := by
  rcases exec_keeps (shiftInRange_rel _ _) h with hshift | ⟨u, -, rfl⟩
  · rcases exec_keeps (bufferLegal_rel _ _) h with hbuffer | ⟨u, -, rfl⟩
    · exact ⟨hshift hs.shift, exec_pllLegal hs.pll h, hbuffer hs.buffer⟩
    · exact .resetEvent _ u
  · exact .resetEvent _ u

/-- Settles O14: SHIFT and the buffer are in range after every write of an operation, the clock program after every
operation. -/
theorem stepKeepsRanges : Obligations.StepKeepsRanges := by
  unfold Obligations.StepKeepsRanges
  intro s t hshift hpll hbuffer h
  have ht : RangesLegal Config.chip t :=
    step_keeps (R := fun s t => RangesLegal Config.chip s → RangesLegal Config.chip t)
      (fun _ _ _ hst htu h => htu (hst h)) (fun _ _ _ _ hs => ⟨hs.shift, hs.pll, hs.buffer⟩)
      (fun _ _ _ e hs => exec_rangesLegal hs e) (fun s _ => .resetEvent _ s) h ⟨hshift, hpll, hbuffer⟩
  exact ⟨ht.shift, ht.pll, ht.buffer⟩

end Sys2Proof.Machine
end

section
/-! The descriptor invariant (spec/10_state.md R31, spec/42_dma_pipeline.md R167, R169, R177), at the end of
DMA_REPROGRAM where no armed channel has a turn in its gaps (notes/assumptions/23.md), and at the end of a line:
between the beats of a line, in whatever order the schedule takes them, each channel stands at a beat of its line or
has completed it. -/

namespace Sys2Proof.Machine

/-! ## The steps that leave both descriptors alone -/

theorem State.chan_setChan_ne (s : State) {c c' : Channel} (d : Descriptor) (h : c' ≠ c) :
    (s.setChan c d).chan c' = s.chan c' := by
  cases c with
  | primary =>
    cases c' with
    | primary => exact absurd rfl h
    | secondary => rfl
  | secondary =>
    cases c' with
    | primary => rfl
    | secondary => exact absurd rfl h

theorem chan_timerClock (s : State) (c : Channel) : (timerClock s).chan c = s.chan c := by
  rcases timerClock_cases s with ⟨-, h⟩ | ⟨-, h⟩
  · rw [h]
  · rw [h]; cases c <;> rfl

theorem chan_lockPll (s : State) (c : Channel) : (lockPll s).chan c = s.chan c := by
  simp only [lockPll]
  split
  · cases c <;> rfl
  · rfl

theorem chan_pixelClock (C : Config) (s : State) (c : Channel) : (pixelClock C s).chan c = s.chan c := by
  simp only [pixelClock]
  split
  · split
    · cases c <;> rfl
    · split
      · cases c <;> rfl
      · split
        · cases c <;> rfl
        · rfl
  · rfl

theorem chan_evictByte (a : Word) (s : State) (c : Channel) : (evictByte a s).chan c = s.chan c := by
  rw [evictByte, writeBack_eq]; cases c <;> rfl

theorem chan_dmaReadByte (C : Config) (a : Nat) (s : State) (c : Channel) :
    (dmaReadByte C a s).2.chan c = s.chan c := by
  rw [dmaReadByte_state]; cases c <;> rfl

/-- A beat's end advances its own channel and no other. -/
theorem chan_finishBeat_same (c : Channel) (bytes : List Byte) (s : State) :
    (finishBeat c bytes s).chan c = advanceDescriptor (s.chan c) := by
  simp [finishBeat, writePort]

theorem chan_finishBeat_ne {c c' : Channel} (bytes : List Byte) (s : State) (h : c' ≠ c) :
    (finishBeat c bytes s).chan c' = s.chan c' := by
  simp [finishBeat, writePort, State.chan_setChan_ne _ _ h]

/-! ## Gaps in which no armed channel has a turn -/

/-- No channel that has a turn in the coming gaps is armed. -/
def State.unarmedTurns (s : State) : Prop := ∀ ts ∈ s.gaps, ∀ c, Turn.dmaBeat c ∈ ts → (s.chan c).erq = false

theorem State.unarmedTurns.congr {s t : State} (h : s.unarmedTurns) (hgaps : t.gaps <:+ s.gaps)
    (herq : ∀ c, (t.chan c).erq = (s.chan c).erq) : t.unarmedTurns :=
  fun ts hts c hc => (herq c).trans (h ts (hgaps.subset hts) c hc)

/-- A turn of a channel that is not armed begins no beat (R169). -/
theorem takeTurn_unarmed {C : Config} {own : Option Channel} {u : Turn} {s : State} {r : OpenBeats × State}
    (hu : ∀ c, u = .dmaBeat c → (s.chan c).erq = false) (h : takeTurn C own u .empty s = .next r) :
    r.1 = .empty ∧ ∀ c, r.2.chan c = s.chan c := by
  cases u with
  | tmrStep => cases h; exact ⟨rfl, chan_timerClock s⟩
  | pllLock => cases h; exact ⟨rfl, chan_lockPll s⟩
  | shiftOut => cases h; exact ⟨rfl, chan_pixelClock C s⟩
  | cacheEvict a => cases h; exact ⟨rfl, chan_evictByte a s⟩
  | dmaBeat c =>
    have hdisabled : beatEnabled c s = false := by simp [beatEnabled, hu c rfl]
    have hstay : beatTurn C c .empty s = .next (.empty, s) := by
      cases c <;> simp [beatTurn, OpenBeats.chan, OpenBeats.empty, hdisabled]
    simp only [takeTurn, hstay, ite_self] at h
    cases h
    exact ⟨rfl, fun _ => rfl⟩
  | reset => cases h

theorem takeTurns_unarmed {C : Config} {own : Option Channel} (ts : List Turn) :
    ∀ {s : State} {r : OpenBeats × State}, (∀ c, Turn.dmaBeat c ∈ ts → (s.chan c).erq = false) →
      takeTurns C own ts .empty s = .next r → r.1 = .empty ∧ ∀ c, r.2.chan c = s.chan c := by
  induction ts with
  | nil => intro s r _ h; cases h; exact ⟨rfl, fun _ => rfl⟩
  | cons u ts ih =>
    intro s r hts h
    obtain ⟨⟨b1, s1⟩, hfirst, hrest⟩ := andThen_eq_next h
    obtain ⟨rfl, hchan⟩ := takeTurn_unarmed (fun c e => hts c (by simp [e])) hfirst
    obtain ⟨hempty, hchan'⟩ := ih (fun c hc => by rw [hchan]; exact hts c (List.mem_cons_of_mem _ hc)) hrest
    exact ⟨hempty, fun c => (hchan' c).trans (hchan c)⟩

/-- Such a gap leaves both descriptors and SHIFT alone, and the gaps that follow are such gaps. -/
theorem gapWithout_unarmed {C : Config} {held : Option Channel} {s t : State} (hs : s.unarmedTurns)
    (h : gapWithout C held s = .next t) : (∀ c, t.chan c = s.chan c) ∧ t.shift = s.shift ∧ t.unarmedTurns := by
  have hshift := (agentStep_rel C).gapWithout held s
  have hgaps := (gaps_rel C).gapWithout held s
  rw [h] at hshift hgaps
  have hchan : ∀ c, t.chan c = s.chan c := by
    obtain ⟨⟨b, s1⟩, hturns, hclose⟩ := andThen_eq_next h
    simp only [gapTurns] at hturns
    split at hturns
    · cases hturns; cases hclose; exact fun _ => rfl
    · rename_i ts rest hschedule
      obtain ⟨rfl, hchan⟩ := takeTurns_unarmed (s := { s with gaps := rest }) ts
        (fun c hc => (hs ts (by rw [hschedule]; exact List.mem_cons_self) c hc : (s.chan c).erq = false)) hturns
      cases hclose
      exact hchan
  exact ⟨hchan, hshift.frame.shift, hs.congr hgaps fun c => by rw [hchan c]⟩

/-! ## DMA_REPROGRAM (R31, R167) -/

/-- The source addresses of a line of SHIFT `shift` at `p`, with no armed channel in the coming gaps. -/
structure Readdressed (p shift : Word) (s : State) : Prop where
  primary : s.dma0.saddr = p
  secondary : s.dma1.saddr = p + shift
  shift_eq : s.shift = shift
  unarmed : s.unarmedTurns

/-- A write to one descriptor that arms nothing keeps the turns of armed channels out. -/
theorem State.unarmedTurns.setChan {s : State} (h : s.unarmedTurns) (c : Channel) (d : Descriptor)
    (hd : d.erq = (s.chan c).erq) : (s.setChan c d).unarmedTurns := by
  refine h.congr (by rw [State.setChan_gaps]) fun c' => ?_
  by_cases hc : c' = c
  · subst hc; rw [State.chan_setChan, hd]
  · rw [State.chan_setChan_ne _ _ hc]

theorem Readdressed.of_gap {C : Config} {held : Option Channel} {p shift : Word} {s t : State}
    (hs : Readdressed p shift s) (h : gapWithout C held s = .next t) : Readdressed p shift t := by
  obtain ⟨hchan, hshift, hunarmed⟩ := gapWithout_unarmed hs.unarmed h
  exact ⟨by rw [← hs.primary]; exact congrArg Descriptor.saddr (hchan .primary),
    by rw [← hs.secondary]; exact congrArg Descriptor.saddr (hchan .secondary), hshift.trans hs.shift_eq, hunarmed⟩

theorem Readdressed.setSecondary {p shift : Word} {s : State} (hs : Readdressed p shift s) (d : Descriptor)
    (hsaddr : d.saddr = s.dma1.saddr) (hd : d.erq = s.dma1.erq) : Readdressed p shift (s.setChan .secondary d) :=
  ⟨hs.primary, hsaddr.trans hs.secondary, hs.shift_eq, hs.unarmed.setChan .secondary d hd⟩

/-- After a write that keeps the addresses, and its gap. -/
theorem Readdressed.of_assign {C : Config} {p shift : Word} {f : State → State} {gs : List (State → Flow State)}
    {s t : State} (hs : Readdressed p shift (f s)) (h : inOrder C (assign f :: gs) s = .next t) :
    ∃ u, Readdressed p shift u ∧ inOrder C gs u = .next t := by
  rw [inOrder_cons, assign_eq, andThen_next] at h
  obtain ⟨u, hgap, h⟩ := andThen_eq_next h
  exact ⟨u, hs.of_gap hgap, h⟩

/-- R167's writes of the secondary's address and beat, after the primary's address. -/
theorem readdressSecondary_readdressed {C : Config} {p : Word} {s t : State} (hprimary : s.dma0.saddr = p)
    (hs : s.unarmedTurns) (h : readdressSecondary C p s = .next t) : Readdressed p s.shift t := by
  obtain ⟨u, hgap, hbeat⟩ := andThen_eq_next h
  have hu : Readdressed p s.shift u :=
    Readdressed.of_gap (s := s.setChan .secondary { s.dma1 with saddr := p + s.shift })
      ⟨hprimary, rfl, rfl, hs.setChan .secondary { s.dma1 with saddr := _ } rfl⟩ hgap
  cases hbeat
  exact hu.setSecondary _ rfl rfl

/-- The writes of DMA_REPROGRAM end with the two addresses SHIFT apart, where no armed channel has a turn between
them. -/
theorem reprogramWrites_readdressed {C : Config} {p : Word} {s t : State} (hs : s.unarmedTurns)
    (h : inOrder C (reprogramWrites C p) s = .next t) : Readdressed p s.shift t := by
  rw [reprogramWrites, onChan, inOrder_cons, assign_eq, andThen_next] at h
  obtain ⟨s1, hgap, h⟩ := andThen_eq_next h
  obtain ⟨hchan, hshift, hunarmed⟩ :=
    gapWithout_unarmed (hs.setChan .primary { s.dma0 with saddr := p } rfl) hgap
  obtain ⟨s2, hread, h⟩ := andThen_eq_next h
  obtain ⟨s3, hgap, h⟩ := andThen_eq_next h
  have hs3 : Readdressed p s.shift s3 := by
    have hs2 := readdressSecondary_readdressed (congrArg Descriptor.saddr (hchan .primary)) hunarmed hread
    rw [hshift] at hs2
    exact hs2.of_gap hgap
  obtain ⟨s4, hs4, h⟩ := (hs3.setSecondary { s3.dma1 with count := s3.secondaryCount } rfl rfl).of_assign h
  obtain ⟨s5, hs5, h⟩ := Readdressed.of_assign ⟨hs4.primary, hs4.secondary, hs4.shift_eq, hs4.unarmed⟩ h
  obtain ⟨s6, hs6, h⟩ := (hs5.setSecondary { s5.dma1 with rem := s5.dma1.count } rfl rfl).of_assign h
  cases h
  exact hs6

/-- R31, at its first point. -/
theorem dmaReprogram_addressesDiffer {C : Config} {p : Word} {s t : State} (hgran : s.mode.gran ≠ 0)
    (hreset : s.noReset) (hs : s.unarmedTurns) (h : dmaReprogram C p s = .next t) :
    t.dma1.saddr - t.dma0.saddr = t.shift ∧ t.dma0.saddr = p := by
  have hwritten : s.modeWritten = true := by simpa [State.modeWritten] using hgran
  simp only [dmaReprogram, hwritten, if_true] at h
  have hperforms := (shown_writeRel C [.descriptors]).reprogram (by simp) p s
  have hnext := (hperforms.settle_eq_next h).resolve_right fun habandoned => habandoned.1 hreset
  simp only [reprogram] at hnext
  split at hnext
  · have ht := reprogramWrites_readdressed hs hnext
    rw [ht.secondary, ht.primary, ht.shift_eq, BitVec.add_comm, BitVec.add_sub_cancel]
    exact ⟨rfl, rfl⟩
  · cases hnext

/-! ## A line of one channel -/

/-- The descriptor after `k` beats of the line that `d` was at the start of. -/
def Descriptor.afterBeats (d : Descriptor) (k : Nat) : Descriptor :=
  { d with saddr := d.saddr + BitVec.ofNat 32 (d.beat.toNat * k), rem := d.count - BitVec.ofNat 32 k }

/-- In a line: some of its beats are taken, and not all. -/
def InLine (start d : Descriptor) : Prop := ∃ k, k < start.count.toNat ∧ d = start.afterBeats k

/-- R169: the line is complete, rewound to its start and disarmed. -/
structure LineComplete (start d : Descriptor) : Prop where
  saddr : d.saddr = start.saddr
  done : d.done = true
  disarmed : d.erq = false

/-- Where a channel stands between the beats of a line. -/
def LinePhase (start d : Descriptor) : Prop := InLine start d ∨ LineComplete start d

theorem InLine.done_eq {start d : Descriptor} (h : InLine start d) : d.done = start.done := by
  obtain ⟨k, -, rfl⟩ := h; rfl

/-- An armed channel has not completed its line. -/
theorem LinePhase.inLine_of_erq {start d : Descriptor} (h : LinePhase start d) (harmed : d.erq = true) :
    InLine start d := by
  refine h.resolve_right fun hcomplete => ?_
  rw [hcomplete.disarmed] at harmed
  cases harmed

theorem LinePhase.of_atLineStart {s : State} {c : Channel} (h : AtLineStart s c) : LinePhase (s.chan c) (s.chan c) := by
  refine .inl ⟨0, h.count, ?_⟩
  apply Descriptor.ext <;> simp [Descriptor.afterBeats, h.rem]

theorem afterBeats_step (d : Descriptor) (k : Nat) :
    { d.afterBeats k with
      saddr := (d.afterBeats k).saddr + (d.afterBeats k).beat, rem := (d.afterBeats k).rem - 1 }
      = d.afterBeats (k + 1) := by
  have hsaddr : BitVec.ofNat 32 (d.beat.toNat * k) + d.beat = BitVec.ofNat 32 (d.beat.toNat * (k + 1)) := by
    rw [Nat.mul_succ, BitVec.ofNat_add, BitVec.ofNat_toNat, BitVec.setWidth_eq]
  have hrem : d.count - BitVec.ofNat 32 k - 1 = d.count - BitVec.ofNat 32 (k + 1) := by
    rw [BitVec.ofNat_add, BitVec.sub_sub]
    rfl
  apply Descriptor.ext <;> simp only [Descriptor.afterBeats, BitVec.add_assoc, hsaddr, hrem]

theorem afterBeats_rem_eq_zero {d : Descriptor} {k : Nat} (hk : k ≤ d.count.toNat) :
    (d.afterBeats k).rem = 0 ↔ k = d.count.toNat := by
  show d.count - BitVec.ofNat 32 k = 0 ↔ _
  bv_omega

/-- R169: a beat of a line, its end. -/
theorem advanceDescriptor_afterBeats (d : Descriptor) (k : Nat) :
    advanceDescriptor (d.afterBeats k) =
      if (d.afterBeats (k + 1)).rem = 0 then
        let last := ({ d.afterBeats (k + 1) with
          saddr := (d.afterBeats (k + 1)).saddr + d.slast, rem := d.count } : Descriptor).setDone true
        if last.dreq then last.setErq false else last
      else d.afterBeats (k + 1) := by
  rw [← afterBeats_step]
  rfl

/-- R170: SLAST rewinds a whole line of STRIDE bytes. -/
theorem saddr_rewound {s : State} {c : Channel} (h : AtLineStart s c) :
    ((s.chan c).afterBeats (s.chan c).count.toNat).saddr + (s.chan c).slast = (s.chan c).saddr := by
  simp only [Descriptor.afterBeats, h.stride, h.slast, BitVec.ofNat_toNat, BitVec.setWidth_eq]
  bv_omega

/-- R169, R170: a beat takes a channel in its line on to the next beat, or completes the line. -/
theorem InLine.advance {s : State} {c : Channel} (h : AtLineStart s c) {d : Descriptor} (hd : InLine (s.chan c) d) :
    LinePhase (s.chan c) (advanceDescriptor d) := by
  obtain ⟨k, hk, rfl⟩ := hd
  have hrem := afterBeats_rem_eq_zero (d := s.chan c) (Nat.succ_le_of_lt hk)
  rw [advanceDescriptor_afterBeats]
  split
  · rename_i hzero
    have hlast : k + 1 = (s.chan c).count.toNat := hrem.1 hzero
    have hdreq : getFlag (setFlag (s.chan c).dcsr 2 true) 1 = true :=
      (getFlag_setFlag_ne _ _ _ _ (by decide) (by decide)).trans h.dreq
    have hdone : getFlag (setFlag (setFlag (s.chan c).dcsr 2 true) 0 false) 2 = true :=
      (getFlag_setFlag_ne _ _ _ _ (by decide) (by decide)).trans (getFlag_setFlag_same _ _ _ (by decide))
    right
    rw [hlast]
    show LineComplete _ (if getFlag (setFlag (s.chan c).dcsr 2 true) 1 then _ else _)
    rw [if_pos hdreq]
    exact ⟨saddr_rewound h, hdone, getFlag_setFlag_same _ _ _ (by decide)⟩
  · rename_i hleft
    exact .inl ⟨k + 1, lt_of_le_of_ne hk (mt hrem.2 hleft), rfl⟩

/-! ## The beats of both channels (R177) -/

theorem OpenBeats.chan_setChan (b : OpenBeats) (c : Channel) (o : Option OpenBeat) : (b.setChan c o).chan c = o := by
  cases c <;> rfl

theorem OpenBeats.chan_setChan_ne (b : OpenBeats) {c c' : Channel} (o : Option OpenBeat) (h : c' ≠ c) :
    (b.setChan c o).chan c' = b.chan c' := by
  cases c with
  | primary =>
    cases c' with
    | primary => exact absurd rfl h
    | secondary => rfl
  | secondary =>
    cases c' with
    | primary => rfl
    | secondary => exact absurd rfl h

theorem OpenBeats.setChan_none_of_closed {b : OpenBeats} {c : Channel} (h : b.chan c = none) :
    b.setChan c none = b := by
  obtain ⟨primary, secondary⟩ := b
  cases c with
  | primary => cases h; rfl
  | secondary => cases h; rfl

/-- Since the start of a line in `start`, with the beats `b` in progress and that of `own`, if any, as an operation:
each channel is in its line or has completed it, and one with a beat in progress is in its line. -/
structure LineBeats (start : State) (own : Option Channel) (b : OpenBeats) (s : State) : Prop where
  phase : ∀ c, LinePhase (start.chan c) (s.chan c)
  busy : ∀ c, own = some c ∨ (b.chan c).isSome = true → InLine (start.chan c) (s.chan c)
  own_closed : ∀ c, own = some c → b.chan c = none

section
variable {start : State} {own : Option Channel} {b : OpenBeats} {s : State}

/-- A step that leaves both descriptors alone. -/
theorem LineBeats.of_chan {t : State} (h : LineBeats start own b s) (hchan : ∀ c, t.chan c = s.chan c) :
    LineBeats start own b t :=
  ⟨fun c => by rw [hchan]; exact h.phase c, fun c hc => by rw [hchan]; exact h.busy c hc, h.own_closed⟩

/-- A beat of a channel in its line goes on, or begins. -/
theorem LineBeats.openBeat (h : LineBeats start own b s) {c : Channel} (hown : own ≠ some c)
    (hline : InLine (start.chan c) (s.chan c)) (o : Option OpenBeat) : LineBeats start own (b.setChan c o) s := by
  refine ⟨h.phase, fun c' hc' => ?_, fun c' hc' => ?_⟩
  · by_cases hcc : c' = c
    · rw [hcc]; exact hline
    · rw [OpenBeats.chan_setChan_ne _ _ hcc] at hc'; exact h.busy c' hc'
  · have hcc : c' ≠ c := fun e => hown (e ▸ hc')
    rw [OpenBeats.chan_setChan_ne _ _ hcc]; exact h.own_closed c' hc'

/-- A beat ends (R169). -/
theorem LineBeats.finishBeat (h : LineBeats start own b s) (hstart : ∀ c, AtLineStart start c) {c : Channel}
    (hown : own ≠ some c) (hline : InLine (start.chan c) (s.chan c)) (bytes : List Byte) :
    LineBeats start own (b.setChan c none) (finishBeat c bytes s) := by
  refine ⟨fun c' => ?_, fun c' hc' => ?_, fun c' hc' => ?_⟩
  · by_cases hcc : c' = c
    · rw [hcc, chan_finishBeat_same]; exact hline.advance (hstart c)
    · rw [chan_finishBeat_ne _ _ hcc]; exact h.phase c'
  · by_cases hcc : c' = c
    · subst hcc
      rw [OpenBeats.chan_setChan] at hc'
      exact absurd hc' (by simp [hown])
    · rw [OpenBeats.chan_setChan_ne _ _ hcc] at hc'
      rw [chan_finishBeat_ne _ _ hcc]
      exact h.busy c' hc'
  · have hcc : c' ≠ c := fun e => hown (e ▸ hc')
    rw [OpenBeats.chan_setChan_ne _ _ hcc]; exact h.own_closed c' hc'

variable {C : Config}

/-- One step of a channel's beat in a gap. -/
theorem LineBeats.beatTurn (h : LineBeats start own b s) (hstart : ∀ c, AtLineStart start c) {c : Channel}
    (hown : own ≠ some c) {r : OpenBeats × State} (e : beatTurn C c b s = .next r) : LineBeats start own r.1 r.2 := by
  simp only [Machine.beatTurn] at e
  split at e
  · split at e
    · rename_i henabled
      split at e
      · cases e
      · cases e
        simp only [beatEnabled, Bool.and_eq_true] at henabled
        exact h.openBeat hown ((h.phase c).inLine_of_erq henabled.1) _
    · cases e; exact h
  · rename_i hopen
    cases e
    exact h.finishBeat hstart hown (h.busy c (.inr (by rw [hopen]; rfl))) _
  · rename_i a n bytes hopen
    cases e
    exact (h.openBeat hown (h.busy c (.inr (by rw [hopen]; rfl))) _).of_chan (chan_dmaReadByte C a s)

theorem LineBeats.takeTurn (h : LineBeats start own b s) (hstart : ∀ c, AtLineStart start c) {u : Turn}
    {r : OpenBeats × State} (e : takeTurn C own u b s = .next r) : LineBeats start own r.1 r.2 := by
  cases u with
  | tmrStep => cases e; exact h.of_chan (chan_timerClock s)
  | pllLock => cases e; exact h.of_chan (chan_lockPll s)
  | shiftOut => cases e; exact h.of_chan (chan_pixelClock C s)
  | cacheEvict a => cases e; exact h.of_chan (chan_evictByte a s)
  | dmaBeat c =>
    simp only [Machine.takeTurn] at e
    split at e
    · cases e; exact h
    · rename_i hown; exact h.beatTurn hstart hown e
  | reset => cases e

theorem LineBeats.takeTurns (hstart : ∀ c, AtLineStart start c) (ts : List Turn) :
    ∀ {b s}, LineBeats start own b s → ∀ {r : OpenBeats × State}, takeTurns C own ts b s = .next r →
      LineBeats start own r.1 r.2 := by
  induction ts with
  | nil => intro b s h r e; cases e; exact h
  | cons u ts ih =>
    intro b s h r e
    obtain ⟨r1, hfirst, hrest⟩ := andThen_eq_next e
    exact ih (h.takeTurn hstart hfirst) hrest

theorem LineBeats.gapTurns (h : LineBeats start own b s) (hstart : ∀ c, AtLineStart start c) {r : OpenBeats × State}
    (e : gapTurns C own b s = .next r) : LineBeats start own r.1 r.2 := by
  simp only [Machine.gapTurns] at e
  split at e
  · cases e; exact h
  · rename_i ts rest hschedule
    exact LineBeats.takeTurns hstart ts (s := { s with gaps := rest }) (h.of_chan fun c => by cases c <;> rfl) e

/-- A beat left open at the end of a gap is ended. -/
theorem LineBeats.closeOpen (h : LineBeats start own b s) (hstart : ∀ c, AtLineStart start c) {c : Channel}
    (hown : own ≠ some c) : LineBeats start own (b.setChan c none) (closeOpen C c (b.chan c) s) := by
  have hclose (n : Nat) : ∀ (a : Nat) (bytes : List Byte) (t : State), LineBeats start own b t →
      InLine (start.chan c) (t.chan c) → LineBeats start own (b.setChan c none) (closeBeat C c n a bytes t) := by
    induction n with
    | zero => exact fun a bytes t ht hline => ht.finishBeat hstart hown hline bytes
    | succ n ih =>
      exact fun a bytes t ht hline => ih _ _ _ (ht.of_chan (chan_dmaReadByte C a t))
        (by rw [chan_dmaReadByte]; exact hline)
  cases hopen : b.chan c with
  | none =>
    rw [OpenBeats.setChan_none_of_closed hopen]
    exact h
  | some f => exact hclose _ _ _ _ h (h.busy c (.inr (by rw [hopen]; rfl)))

theorem LineBeats.closeBeats (h : LineBeats start none b s) (hstart : ∀ c, AtLineStart start c) :
    LineBeats start none .empty (closeBeats C b s) := by
  have hprimary := h.closeOpen (C := C) hstart (c := .primary) nofun
  exact hprimary.closeOpen (C := C) hstart (c := .secondary) nofun

/-- The bytes of a channel's own beat, with whatever happens in the gaps between them. -/
theorem LineBeats.beatBytes (hstart : ∀ c, AtLineStart start c) {c : Channel} (n : Nat) :
    ∀ {a bytes b s}, LineBeats start (some c) b s → ∀ {r : List Byte × OpenBeats × State},
      beatBytes C c n a bytes b s = .next r → LineBeats start (some c) r.2.1 r.2.2 := by
  induction n with
  | zero => intro a bytes b s h r e; cases e; exact h
  | succ n ih =>
    intro a bytes b s h r e
    obtain ⟨r1, hgap, hrest⟩ := andThen_eq_next e
    exact ih ((h.of_chan (chan_dmaReadByte C a s)).gapTurns hstart hgap) hrest

/-- A whole beat of an armed channel. -/
theorem LineBeats.beat (h : LineBeats start none .empty s) (hstart : ∀ c, AtLineStart start c) {c : Channel}
    (harmed : (s.chan c).erq = true) {t : State} (e : beat C c s = .next t) : LineBeats start none .empty t := by
  simp only [Machine.beat] at e
  split at e
  · cases e
  · obtain ⟨⟨bytes, b', s'⟩, hbytes, e⟩ := andThen_eq_next e
    cases e
    have hopen : LineBeats start (some c) .empty s := by
      refine ⟨h.phase, fun c' hc' => ?_, fun c' _ => by cases c' <;> rfl⟩
      rcases hc' with hc' | hc'
      · cases hc'; exact (h.phase c).inLine_of_erq harmed
      · exact h.busy c' (.inr hc')
    have hlast := LineBeats.beatBytes hstart _ hopen hbytes
    have hfree : LineBeats start none b' s' :=
      ⟨hlast.phase, fun c' hc' => hlast.busy c' (.inr (by simpa using hc')), nofun⟩
    have hdone := hfree.finishBeat hstart (c := c) nofun (hlast.busy c (.inl rfl)) bytes
    rw [OpenBeats.setChan_none_of_closed (hlast.own_closed c rfl)] at hdone
    exact hdone.closeBeats hstart

end

theorem thenRun_eq_next {r : Result} {f : State → Result} {t : State} (h : thenRun r f = .next t) :
    ∃ u, r = .next u ∧ f u = .next t := by
  cases r with
  | next u => exact ⟨u, rfl, h⟩
  | fault e => cases h
  | refused e => cases h

/-- DMA_BEAT between the beats of a line: it leaves SHIFT alone. -/
theorem LineBeats.dmaBeat {C : Config} {start s t : State} (h : LineBeats start none .empty s)
    (hstart : ∀ c, AtLineStart start c) (hreset : s.noReset) {c : Channel} (e : dmaBeat C c s = .next t) :
    LineBeats start none .empty t ∧ t.shift = s.shift ∧ t.noReset := by
  simp only [Machine.dmaBeat] at e
  split at e
  · rename_i henabled
    have hperforms := (shown_writeRel C []).beat c s
    have hnext := (hperforms.settle_eq_next e).resolve_right fun habandoned => habandoned.1 hreset
    simp only [beatEnabled, Bool.and_eq_true] at henabled
    exact ⟨h.beat hstart henabled.1 hnext, (beat_step hnext).frame.shift, (hperforms.orderly hreset).2 t hnext⟩
  · cases e; exact ⟨h, rfl, hreset⟩

theorem LineBeats.runBeats {start : State} (hstart : ∀ c, AtLineStart start c) (beats : List Channel) :
    ∀ {s t : State}, LineBeats start none .empty s → s.noReset → runBeats beats s = .next t →
      LineBeats start none .empty t ∧ t.shift = s.shift := by
  induction beats with
  | nil => intro s t h _ e; cases e; exact ⟨h, rfl⟩
  | cons c beats ih =>
    intro s t h hreset e
    obtain ⟨u, hbeat, hrest⟩ := thenRun_eq_next e
    obtain ⟨hu, hshift, hureset⟩ := h.dmaBeat hstart hreset hbeat
    obtain ⟨ht, hshift'⟩ := ih hu hureset hrest
    exact ⟨ht, hshift'.trans hshift⟩

/-- A channel that was at the start of a line and is complete stands at the line's start again. -/
theorem LineBeats.saddr_of_done {start s : State} (h : LineBeats start none .empty s)
    (hstart : ∀ c, AtLineStart start c) {c : Channel} (hdone : (s.chan c).done = true) :
    (s.chan c).saddr = (start.chan c).saddr := by
  rcases h.phase c with hline | hcomplete
  · rw [hline.done_eq, (hstart c).done] at hdone
    cases hdone
  · exact hcomplete.saddr

/-- Settles O30: no gap of DMA_REPROGRAM moves the addresses between its writes; and a channel that completes its line
is rewound to where the line began, by whatever beats. -/
theorem reprogramAddressesDiffer : Obligations.ReprogramAddressesDiffer := by
  unfold Obligations.ReprogramAddressesDiffer
  refine ⟨fun p s t hgran hreset hunarmed h => dmaReprogram_addressesDiffer hgran hreset hunarmed h, ?_⟩
  intro beats s t hreset hprimary hsecondary hdiffer h hdone0 hdone1
  have hstart : ∀ c, AtLineStart s c := fun c => by
    cases c with
    | primary => exact hprimary
    | secondary => exact hsecondary
  have hs : LineBeats s none .empty s :=
    ⟨fun c => .of_atLineStart (hstart c),
      fun c hc => by cases c <;> simp [OpenBeats.empty, OpenBeats.chan] at hc, nofun⟩
  obtain ⟨ht, hshift⟩ := LineBeats.runBeats hstart beats hs hreset h
  have h0 : t.dma0.saddr = s.dma0.saddr := ht.saddr_of_done hstart (c := .primary) hdone0
  have h1 : t.dma1.saddr = s.dma1.saddr := ht.saddr_of_done hstart (c := .secondary) hdone1
  rw [h0, h1, hshift]
  exact hdiffer

end Sys2Proof.Machine
end

section
/-! Memory and the frame buffer (spec/20_memory.md): the canonical form of `MEM` and `CACHE` in every step (R70, R72),
and where the accesses of a legal mode lie (R74, R75, R85, R92, R171). -/

namespace Sys2Proof.Machine

/-! ## The canonical form in every step (R72) -/

/-- Of the agents' steps only a write-back touches the two maps. -/
theorem memoryCanonical_rel (C : Config) : AgentRel C (fun s t => memoryCanonical s → memoryCanonical t) where
  refl := fun _ h => h
  trans := fun _ _ _ hst htu h => htu (hst h)
  timer := fun s => (timerClock_step s).canonical
  lock := fun s => (lockPll_step s).canonical
  pixel := fun s => (pixelClock_step C s).canonical
  write := fun a s => (writeBack_step a s).canonical
  draw := fun s n => (draws_step s n).canonical
  finish := fun c bytes s => (finishBeat_step c bytes s).canonical
  schedule := fun s _ rest _ => (gaps_step s rest).canonical

/-- Of the register writes a host store adds a byte below 2^32 to `CACHE`, a grant forgets bytes of `MEM`, and the
others leave both maps alone. -/
theorem RegisterWrite.memoryCanonical {C : Config} {k : WriteClass} {s t : State} (hw : RegisterWrite C k s t)
    (h : memoryCanonical s) : memoryCanonical t := by
  cases hw with
  | store _ a v hin => exact storeByte_canonical h (storeByte_of_inside hin)
  | allocate =>
    rcases allocate_cases C s with e | ⟨a, -, -, e⟩ <;> rw [e]
    · exact h
    · obtain ⟨hmem, hcache⟩ := h
      exact ⟨memEraseRange_wf hmem a _, hcache⟩
  | tweakShift _ delta => rcases tweakShift_cases C delta s with e | ⟨v, -, e⟩ <;> rw [e] <;> exact h
  | tweakClock _ num denom => rcases tweakClock_cases num denom s with e | ⟨n, d, -, e⟩ <;> rw [e] <;> exact h
  | geometry _ c d hdcsr => cases c <;> exact h
  | control _ c i v hi => cases c <;> exact h
  | stream _ c => cases c <;> exact h
  | _ => exact h

/-- R280: RESET empties `CACHE` and leaves `MEM` as it is. -/
theorem memoryCanonical_resetEvent {s : State} (h : memoryCanonical s) : memoryCanonical (resetEvent s) :=
  ⟨h.1, reset_cache_wf⟩

theorem exec_memoryCanonical {i : Instr} {s t : State} (hs : memoryCanonical s) (h : exec i s = .next t) :
    memoryCanonical t := by
  rcases exec_keeps ⟨memoryCanonical_rel Config.chip, fun _ hw => hw.memoryCanonical⟩ h with hst | ⟨u, hsu, rfl⟩
  · exact hst hs
  · exact memoryCanonical_resetEvent (hsu hs)

/-- Settles O11: a byte becomes dirty inside the frame buffer only, hence below 2^32, a byte written back was listed in
`CACHE`, and RESET and an allocation only forget bytes. -/
theorem stepKeepsMemoryCanonical : Obligations.StepKeepsMemoryCanonical := by
  unfold Obligations.StepKeepsMemoryCanonical
  intro s t hs h
  exact step_keeps (R := fun s t => memoryCanonical s → memoryCanonical t) (fun _ _ _ hst htu h => htu (hst h))
    (fun _ _ _ _ hs => hs) (fun _ _ _ e hs => exec_memoryCanonical hs e) (fun _ => memoryCanonical_resetEvent) h hs

/-! ## Accesses inside the frame buffer (R85, R92, R171) -/

/-- R74: a buffer that covers the mode holds the bytes of every row and of the pad. -/
theorem inFrameBuffer_of_bufferCovers {C : Config} {s : State} (h : bufferCovers C s) {offset : Nat}
    (hoffset : offset < s.mode.stride.toNat * s.mode.height.toNat + C.fbPad) :
    s.inFrameBuffer (s.fb.base.toNat + offset) = true := by
  obtain ⟨hvalid, hsize, hfit⟩ := h
  simp only [State.inFrameBuffer, hvalid, Bool.true_and, decide_eq_true_eq]
  omega

theorem rowOffset_lt {stride height row j : Nat} (hrow : row < height) (hj : j < stride) :
    stride * row + j < stride * height :=
  calc stride * row + j < stride * row + stride := Nat.add_lt_add_left hj _
    _ = stride * (row + 1) := (Nat.mul_succ stride row).symm
    _ ≤ stride * height := Nat.mul_le_mul_left stride hrow

section
variable {C : Config} {s : State} (hcovers : bufferCovers C s)
include hcovers

/-- A byte of a row, as far on as the pad is long: the pad takes what the secondary channel reads past the last row. -/
theorem inFrameBuffer_row_add {row j shift : Nat} (hrow : row < s.mode.height.toNat) (hj : j < s.mode.stride.toNat)
    (hshift : shift ≤ C.fbPad) : s.inFrameBuffer (s.rowBase row + shift + j) = true := by
  have hlt := rowOffset_lt hrow hj
  have haddr : s.rowBase row + shift + j = s.fb.base.toNat + (s.mode.stride.toNat * row + j + shift) := by
    simp only [State.rowBase]; omega
  rw [haddr]
  exact inFrameBuffer_of_bufferCovers hcovers (by omega)

/-- R75: a pixel of the visible window stands in its row, after the left border. -/
theorem inFrameBuffer_pixel {x y : Nat} (hborders : s.mode.lborder.toNat + s.mode.width.toNat ≤ s.mode.stride.toNat)
    (hx : x < s.mode.width.toNat) (hy : y < s.mode.height.toNat) : s.inFrameBuffer (s.pixAddr x y) = true := by
  have haddr : s.pixAddr x y = s.rowBase y + 0 + (s.mode.lborder.toNat + x) := by
    simp only [State.pixAddr, State.win, State.rowBase]; omega
  rw [haddr]
  exact inFrameBuffer_row_add hcovers hy (by omega) (Nat.zero_le _)

end

/-- Settles O33: the allocation holds `STRIDE * HEIGHT` bytes, in which every row lies with its borders, and a pad no
shorter than the largest SHIFT. -/
theorem accessesInsideBuffer : Obligations.AccessesInsideBuffer := by
  unfold Obligations.AccessesInsideBuffer
  intro C s hlegal hrun hmode hshift hcovers
  obtain ⟨-, hstride, -⟩ := hmode hrun
  have hpad : s.shift.toNat ≤ C.fbPad := Nat.le_trans hshift hlegal.fbPad_ge
  refine ⟨fun row j hrow hj => ⟨?primary, ?secondary⟩, fun x y hpixel => ?pixel⟩
  case primary => exact inFrameBuffer_row_add hcovers hrow hj (Nat.zero_le _)
  case secondary => exact inFrameBuffer_row_add hcovers hrow hj hpad
  case pixel =>
    obtain ⟨-, hx0, hx, hy0, hy⟩ := hpixel
    exact inFrameBuffer_pixel hcovers (by omega) (by omega) (by omega)

end Sys2Proof.Machine
end

section
/-! The decoder and the encoder of command words (spec/30_encoding.md R100 to R106): what the decoder can answer for any
word (`decode_decoding`), that it inverts the encoder (`decodeOfEncode`), and that HOST drops an illegal word. -/

namespace Sys2Proof

/-! ## The payload (R103) -/

theorem takePayload_of_le {n : Nat} {data : List Half} (h : n ≤ data.length) :
    takePayload n data = .ok (data.take n, data.drop n) := by
  rw [takePayload, if_neg (by omega)]

theorem takePayload_of_lt {n : Nat} {data : List Half} (h : data.length < n) :
    takePayload n data = .error .payloadIncomplete := by
  rw [takePayload, if_pos h]

theorem takePayload_append {n : Nat} {src : List Half} (hlen : src.length = n) (rest : List Half) :
    takePayload n (src ++ rest) = .ok (src, rest) := by
  subst hlen
  rw [takePayload_of_le (by simp), List.take_left, List.drop_left]

section
variable {α : Type} {make : Half → Half → List α → Instr} {element : Half → α} {w : Command}

theorem decodeRow_of_le {data : List Half} (h : (fieldC w).toNat ≤ data.length) :
    decodeRow make element w data
      = .ok (make (fieldB w) (fieldC w) ((data.take (fieldC w).toNat).map element), data.drop (fieldC w).toNat) := by
  simp only [decodeRow, takePayload_of_le h]

theorem decodeRow_of_lt {data : List Half} (h : data.length < (fieldC w).toNat) :
    decodeRow make element w data = .error .payloadIncomplete := by
  simp only [decodeRow, takePayload_of_lt h]

/-- A row writer reads back the elements laid out one to a DATA element. -/
theorem decodeRow_layout {field : α → Half} (hfield : ∀ x, element (field x) = x) {op : Byte} {y n : Half}
    {src : List α} (hlen : src.length = n.toNat) (rest : List Half) :
    decodeRow make element (layoutABC op 0 y n) (src.map field ++ rest) = .ok (make y n src, rest) := by
  have hpayload : takePayload n.toNat (src.map field ++ rest) = .ok (src.map field, rest) :=
    takePayload_append (by rw [List.length_map, hlen]) rest
  have hsrc : (src.map field).map element = src := by
    rw [List.map_map, show element ∘ field = id from funext hfield, List.map_id]
  simp only [decodeRow, fieldB_layoutABC, fieldC_layoutABC, hpayload, hsrc]

end

/-! ## Encoding, then decoding -/

open Laws in
/-- R100, R104: the lemmas of the constructors, together. -/
theorem opcodeField : ∀ i : Instr, OpcodeField.Statement i
  | .nop => OpcodeField.nop | .beginMode m => OpcodeField.beginMode m | .endMode => OpcodeField.endMode
  | .tweak a b c => OpcodeField.tweak a b c | .waitVsync => OpcodeField.waitVsync
  | .waitLine n => OpcodeField.waitLine n | .frameSize => OpcodeField.frameSize
  | .rowPointer y => OpcodeField.rowPointer y | .getPixel x y => OpcodeField.getPixel x y
  | .setPixel x y v => OpcodeField.setPixel x y v | .writeRowNative y n p => OpcodeField.writeRowNative y n p
  | .writeRowPal8 y n p => OpcodeField.writeRowPal8 y n p | .writeRowRgb565 y n p => OpcodeField.writeRowRgb565 y n p
  | .fbLoad a => OpcodeField.fbLoad a | .fbStore v a => OpcodeField.fbStore v a | .rdreg r => OpcodeField.rdreg r
  | .modeResolve m => OpcodeField.modeResolve m | .clkProgram t => OpcodeField.clkProgram t
  | .pllLock => OpcodeField.pllLock | .dmaConfigure => OpcodeField.dmaConfigure | .dmaEnable => OpcodeField.dmaEnable
  | .dmaDisable => OpcodeField.dmaDisable | .dmaReprogram p => OpcodeField.dmaReprogram p
  | .dmaBeat c => OpcodeField.dmaBeat c | .shiftOut => OpcodeField.shiftOut | .tmrStep => OpcodeField.tmrStep
  | .lineTick => OpcodeField.lineTick | .irqMask => OpcodeField.irqMask | .irqUnmask => OpcodeField.irqUnmask
  | .cacheFlush n a => OpcodeField.cacheFlush n a | .fbAlloc => OpcodeField.fbAlloc | .fbFree => OpcodeField.fbFree
  | .cacheEvict a => OpcodeField.cacheEvict a

/-- Settles O1: the opcode selects the arm of the operation; the operands are read from the fields they were laid out
in, by the formats of R102; a row writer takes exactly its own elements from the DATA port. -/
theorem decodeOfEncode : Obligations.DecodeOfEncode := by
  unfold Obligations.DecodeOfEncode
  intro i rest hwf
  obtain ⟨hop, hz⟩ := opcodeField i
  rw [decode, if_neg (not_not.2 hz), hop]
  cases i
  -- F0
  case nop | endMode | waitVsync | frameSize | pllLock | dmaConfigure | dmaEnable | dmaDisable | shiftOut | tmrStep
      | lineTick | irqMask | irqUnmask | fbAlloc | fbFree => rfl
  -- FC
  case beginMode | waitLine | rdreg | modeResolve | dmaBeat =>
    simp [opcode, encodeWord, encodePayload, fieldC_layoutABC, lowByte_byteField, channelOf_channelBit]
  -- FB, FAB, FABC
  case rowPointer | getPixel | setPixel | tweak =>
    simp [opcode, encodeWord, encodePayload, fieldA_layoutABC, fieldB_layoutABC, fieldC_layoutABC, lowByte_byteField]
  -- FW, FAW
  case fbLoad | clkProgram | dmaReprogram | cacheEvict | fbStore | cacheFlush =>
    simp [opcode, encodeWord, encodePayload, fieldA_layoutAW, fieldW_layoutAW, lowByte_byteField]
  -- FBCP
  case writeRowNative | writeRowPal8 => exact decodeRow_layout lowByte_byteField (beq_iff_eq.1 hwf) rest
  case writeRowRgb565 y n src =>
    have hpayload : encodePayload (.writeRowRgb565 y n src) = src.map id := (List.map_id src).symm
    rw [hpayload]
    exact decodeRow_layout (fun _ => rfl) (beq_iff_eq.1 hwf) rest

/-! ## What the decoder can answer -/

/-- R105: the opcodes that are operations. -/
def assignedOpcode (op : Byte) : Prop := op.toNat ≤ 0x0F ∨ (0x40 ≤ op.toNat ∧ op.toNat ≤ 0x50)

theorem assignedOpcode_opcode (i : Instr) : assignedOpcode (opcode i) := by
  cases i <;> simp [assignedOpcode, opcode]

theorem rejectOp_ne_payloadIncomplete (op : Byte) : rejectOp op ≠ .payloadIncomplete := by
  unfold rejectOp
  split_ifs <;> decide

/-- What the decoder can answer for a word with Z = 0: an operation of the word's opcode with its payload taken; a row
writer whose payload is not all there; or the rejection of an opcode that is no operation (R103, R105). -/
inductive Decoding (w : Command) (data : List Half) : Except Reject (Instr × List Half) → Prop where
  | operation {i : Instr} (hop : fieldOp w = opcode i) (hwf : i.wellFormed = true) :
      Decoding w data (.ok (i, data.drop (encodePayload i).length))
  | incomplete (hop : assignedOpcode (fieldOp w)) : Decoding w data (.error .payloadIncomplete)
  | unassigned (hop : ¬ assignedOpcode (fieldOp w)) : Decoding w data (.error (rejectOp (fieldOp w)))

/-- R100, R106: Z comes first. -/
theorem decode_of_fieldZ_ne {w : Command} (hz : fieldZ w ≠ 0) (data : List Half) :
    decode w data = .error .zNotZero := by
  rw [decode, if_pos hz]

theorem fieldZ_of_decode_eq_ok {w : Command} {data : List Half} {r : Instr × List Half} (h : decode w data = .ok r) :
    fieldZ w = 0 := by
  by_contra hz
  rw [decode_of_fieldZ_ne hz] at h
  cases h

theorem fieldOp_eq_opcode {w : Command} {i : Instr} (hop : (fieldOp w).toNat = (opcode i).toNat) :
    fieldOp w = opcode i :=
  BitVec.eq_of_toNat_eq hop

/-- The arm of a row writer `make`: it has one payload element for each of its own, C of them (R103). -/
theorem Decoding.row {α : Type} {make : Half → Half → List α → Instr} {element : Half → α} {w : Command}
    (data : List Half) (hop : ∀ y n src, fieldOp w = opcode (make y n src))
    (hwf : ∀ y n src, (make y n src).wellFormed = (src.length == n.toNat))
    (hpayload : ∀ y n src, (encodePayload (make y n src)).length = src.length) :
    Decoding w data (decodeRow make element w data) := by
  rcases Nat.lt_or_ge data.length (fieldC w).toNat with hshort | hlong
  · rw [decodeRow_of_lt hshort]
    exact .incomplete (hop 0 0 [] ▸ assignedOpcode_opcode _)
  · rw [decodeRow_of_le hlong]
    have hlen : ((data.take (fieldC w).toNat).map element).length = (fieldC w).toNat := by simp [hlong]
    have hdone := Decoding.operation (data := data)
      (hop (fieldB w) (fieldC w) ((data.take (fieldC w).toNat).map element)) (by rw [hwf, hlen, beq_self_eq_true])
    rwa [hpayload, hlen] at hdone

/-- The arms of the decoder, the row writers' and the last apart, are the one-word operations. -/
theorem decode_decoding {w : Command} (hz : fieldZ w = 0) (data : List Half) : Decoding w data (decode w data) := by
  rw [decode, if_neg (not_not.2 hz)]
  split
  case h_34 =>
    refine .unassigned fun hop => ?_
    simp only [assignedOpcode, imp_false] at *
    omega
  case h_11 hop | h_12 hop | h_13 hop =>
    exact .row data (fun _ _ _ => fieldOp_eq_opcode hop) (fun _ _ _ => rfl) (fun _ _ _ => by simp [encodePayload])
  all_goals
    rename_i hop
    exact .operation (fieldOp_eq_opcode hop) rfl

/-- R105: any other opcode is rejected. -/
theorem decode_of_not_assignedOpcode {w : Command} (hz : fieldZ w = 0) (hop : ¬ assignedOpcode (fieldOp w))
    (data : List Half) : decode w data = .error (rejectOp (fieldOp w)) := by
  have hdecoding := decode_decoding hz data
  generalize decode w data = answer at hdecoding
  cases hdecoding with
  | @operation i hop' hwf => exact absurd (hop' ▸ assignedOpcode_opcode i) hop
  | incomplete hop' => exact absurd hop' hop
  | unassigned => rfl

/-! ## The statements about the decoder -/

/-- Settles O2: a word that decodes has Z = 0, since the decoder rejects any other, and then `Decoding.operation` is the
only case that answers an operation. -/
theorem decodedWordMatches : Obligations.DecodedWordMatches := by
  unfold Obligations.DecodedWordMatches
  intro w data rest i h
  have hz : fieldZ w = 0 := fieldZ_of_decode_eq_ok h
  have hdecoding := h ▸ decode_decoding hz data
  cases hdecoding with
  | operation hop hwf => exact ⟨hz, hop, hwf, rfl⟩

/-- Settles O3: `Decoding` says for each answer whether the opcode is assigned. -/
theorem assignedOpcodes : Obligations.AssignedOpcodes := by
  unfold Obligations.AssignedOpcodes
  intro w data hz
  change assignedOpcode (fieldOp w) ↔ _
  have hdecoding := decode_decoding hz data
  generalize decode w data = answer at hdecoding
  cases hdecoding with
  | @operation i hop hwf => exact iff_of_true (hop ▸ assignedOpcode_opcode i) (.inl ⟨i, _, rfl⟩)
  | incomplete hop => exact iff_of_true hop (.inr rfl)
  | unassigned hop =>
    refine iff_of_false hop ?_
    rintro (⟨i, rest, hok⟩ | hincomplete)
    · cases hok
    · exact rejectOp_ne_payloadIncomplete _ (Except.error.inj hincomplete)

theorem decode_of_encodeWord_eq {i : Instr} {w : Command} {data rest : List Half} (hword : encodeWord i = w)
    (hdata : encodePayload i ++ rest = data) (hwf : i.wellFormed = true) : decode w data = .ok (i, rest) := by
  rw [← hword, ← hdata]
  exact decodeOfEncode i rest hwf

/-- Settles O4: each word is the one its operation is encoded in, so it decodes to it (O1). -/
theorem workedEncodings : Obligations.WorkedEncodings := by
  unfold Obligations.WorkedEncodings
  refine ⟨?_, ?_, ?_, ?_, ?_, ?_, ?_, ?_, ?_, ?_, ?_, ?_, ?_, ?_, ?_, ?_⟩
  all_goals exact decode_of_encodeWord_eq (by decide) (by decide) (by decide)

/-! ## An illegal word on the CMD port (R106) -/

/-- R106: the CMD port rejects an illegal word, and not for its payload. -/
theorem decodeHost_of_illegal {w : Command} (hillegal : fieldZ w ≠ 0 ∨ 0x10 ≤ (fieldOp w).toNat)
    (data : List Half) : ∃ reject, decodeHost w data = .error reject ∧ reject ≠ .payloadIncomplete := by
  unfold decodeHost
  by_cases hinternal : internalClassWord w = true
  · exact ⟨.internalOnCmdPort, if_pos hinternal, by decide⟩
  rw [if_neg hinternal]
  by_cases hz : fieldZ w = 0
  · have hop : ¬ assignedOpcode (fieldOp w) := by
      simp only [internalClassWord, decide_eq_true_eq] at hinternal
      unfold assignedOpcode
      have hhigh := hillegal.resolve_left (not_not.2 hz)
      omega
    exact ⟨_, decode_of_not_assignedOpcode hz hop data, rejectOp_ne_payloadIncomplete _⟩
  · exact ⟨.zNotZero, decode_of_fieldZ_ne hz data, by decide⟩

namespace Machine

theorem takeCommand_of_reject {s : State} {w : Command} {ws : List Command} {reject : Reject}
    (hmask : s.irqMasked = false) (hcmd : s.cmd = w :: ws) (hdecode : decodeHost w s.data = .error reject)
    (hreject : reject ≠ .payloadIncomplete) : takeCommand s = .next { s with cmd := ws } := by
  cases reject with
  | payloadIncomplete => exact absurd rfl hreject
  | _ => simp [takeCommand, hcmd, hmask, hdecode]

/-- Settles O6: HOST takes the word, the CMD port rejects it, and the move ends there. -/
theorem illegalWordIgnored : Obligations.IllegalWordIgnored := by
  unfold Obligations.IllegalWordIgnored
  intro s w ws hagenda hpending hmask hcmd hillegal
  obtain ⟨reject, hdecode, hreject⟩ := decodeHost_of_illegal hillegal s.data
  calc step s = hostMove s := step_of_agenda_nil hagenda
    _ = takeCommand s := hostMove_of_pending_none hpending
    _ = .next { s with cmd := ws } := takeCommand_of_reject hmask hcmd hdecode hreject

end Machine
end Sys2Proof
end

section
/-! What MODE_RESOLVE answers (spec/40_mode_resolver.md R123) and the reference mode (R122, R124, R127). -/

namespace Sys2Proof.Machine

/-! ## The answer of the resolver -/

theorem exec_modeResolve (mode : Byte) (s : State) : exec (.modeResolve mode) s = .next s := rfl

theorem resolveMode_of_not_inTable {C : Config} {mode : Byte} (htable : C.modeTable mode = none) :
    resolveMode C mode = none := by
  rw [resolveMode, htable]

theorem resolveMode_of_inTable {C : Config} {mode : Byte} {e : ModeEntry} (htable : C.modeTable mode = some e) :
    resolveMode C mode = if entrySupported C e then some (videoModeOf C mode e) else none := by
  rw [resolveMode, htable]

/-- R123: an entry is refused where one of the rule's checks fails. -/
theorem not_entrySupported_iff (C : Config) (e : ModeEntry) :
    ¬ entrySupported C e = true ↔
      e.clkdivN = 0 ∨ e.clkdivD = 0 ∨ e.width = 0 ∨ e.height = 0 ∨ strideOf C e % granularityOf e.combine ≠ 0
        ∨ C.shiftMax < e.shift0 ∨ e.totalLines < e.topBlank + e.height * (if e.ld then 2 else 1)
        ∨ 65535 < strideOf C e ∨ 32767 < e.width ∨ 32767 < e.height ∨ 2 ^ 32 ≤ strideOf C e * e.height + C.fbPad := by
  simp only [entrySupported, Bool.and_eq_true, decide_eq_true_eq, not_and_or, not_not, not_le, not_lt, ne_eq, or_assoc]

/-- Settles O19: the entry is refused where a check fails, and otherwise each field is the rule's by definition. -/
theorem modeResolveResult : Obligations.ModeResolveResult := by
  unfold Obligations.ModeResolveResult
  refine ⟨exec_modeResolve, fun C mode => ⟨resolveMode_of_not_inTable, ?_⟩⟩
  rintro e _ _ _ _ htable rfl rfl rfl rfl
  calc resolveMode C mode
      = if entrySupported C e then some (videoModeOf C mode e) else none := resolveMode_of_inTable htable
    _ = if ¬ entrySupported C e = true then none else some (videoModeOf C mode e) := (ite_not ..).symm
    _ = _ := if_congr (not_entrySupported_iff C e) rfl rfl

/-! ## The reference mode -/

/-- R122: mode 0 of a legal table resolves to the reference entry. -/
theorem resolveMode_zero_eq_some {C : Config} {m : ResolvedMode} (hlegal : C.Legal) (hm : resolveMode C 0 = some m) :
    ∃ shift0 topBlank, m = videoModeOf C 0 (.reference shift0 topBlank) := by
  obtain ⟨e, htable, -, rfl⟩ := resolveMode_eq_some hm
  obtain ⟨shift0, topBlank, hreference⟩ := hlegal.mode0
  obtain rfl : e = .reference shift0 topBlank := Option.some.inj (htable.symm.trans hreference)
  exact ⟨shift0, topBlank, rfl⟩

/-- R124: at the divisors 1 and 1 of the reference entry a border is the whole of its budget. -/
theorem borderOf_reference (budget shift0 topBlank : Nat) : borderOf budget (.reference shift0 topBlank) = budget :=
  (Nat.div_one _).trans (Nat.mul_one budget)

theorem strideOf_reference (C : Config) (shift0 topBlank : Nat) :
    strideOf C (.reference shift0 topBlank) = 640 + C.backporchPix + C.frontporchPix := by
  rw [strideOf, borderOf_reference, borderOf_reference, Nat.add_comm C.backporchPix]
  rfl

/-- R127: the reference entry is clocked at the reference frequency. -/
theorem clockTarget_reference (C : Config) (mode : Byte) (shift0 topBlank : Nat) :
    clockTarget C (videoModeOf C mode (.reference shift0 topBlank)) = C.pixRefFreq :=
  (Nat.div_one _).trans (Nat.mul_one C.pixRefFreq)

/-- Settles O21: mode 0 is the reference entry, whose size and lines stand in it and whose divisors are both 1. -/
theorem referenceMode : Obligations.ReferenceMode := by
  unfold Obligations.ReferenceMode
  intro C m hlegal hm
  obtain ⟨shift0, topBlank, rfl⟩ := resolveMode_zero_eq_some hlegal hm
  exact ⟨rfl, rfl, rfl, rfl, rfl, borderOf_reference _ shift0 topBlank, borderOf_reference _ shift0 topBlank,
    strideOf_reference C shift0 topBlank, clockTarget_reference C 0 shift0 topBlank⟩

end Sys2Proof.Machine
end

section
/-! The clock synthesizer's operations (spec/41_clock_synth.md): what the search of R142 minimises, and what
CLK_PROGRAM, PLL_LOCK and TWEAK write. -/

namespace Sys2Proof.Machine

/-! ## The search (R142) -/

/-- R142: what `P_F_REF * K` is to come near to, `target * P_POST_DIV * D`. -/
def scaledTarget (C : Config) (target : Nat) : Nat := target * C.postDiv * C.denom0

theorem clockError_eq (C : Config) (target k : Nat) :
    clockError C target k = ((C.fRef * k : Nat) - (scaledTarget C target : Nat) : Int).natAbs := by
  simp only [clockError, scaledTarget, Nat.cast_mul]

/-- R142, round half down: twice the program's distance from the target is at most `P_F_REF` from below, and less than
it from above. -/
theorem nearestProgram_bounds {C : Config} (hpos : 0 < C.fRef) (target : Nat) :
    2 * scaledTarget C target ≤ 2 * (C.fRef * nearestProgram C target) + C.fRef
    ∧ 2 * (C.fRef * nearestProgram C target) < 2 * scaledTarget C target + C.fRef := by
  have hdiv := Nat.div_add_mod (scaledTarget C target) C.fRef
  have hmod := Nat.mod_lt (scaledTarget C target) hpos
  by_cases hdown : 2 * (scaledTarget C target % C.fRef) ≤ C.fRef
  · rw [show nearestProgram C target = scaledTarget C target / C.fRef from if_pos hdown]
    omega
  · rw [show nearestProgram C target = scaledTarget C target / C.fRef + 1 from if_neg hdown, Nat.mul_succ]
    omega

/-- From the nearest program upwards the error does not fall. -/
theorem clockError_le_of_nearestProgram_le {C : Config} (hpos : 0 < C.fRef) {target k k' : Nat}
    (hnearest : nearestProgram C target ≤ k) (hk : k ≤ k') : clockError C target k ≤ clockError C target k' := by
  obtain rfl | hlt := Nat.eq_or_lt_of_le hk
  · exact le_rfl
  · have hbelow := (nearestProgram_bounds hpos target).1
    have hstart := Nat.mul_le_mul_left C.fRef hnearest
    have hnext : C.fRef * k + C.fRef ≤ C.fRef * k' := Nat.mul_le_mul_left C.fRef hlt
    rw [clockError_eq, clockError_eq]
    omega

/-- Up to the nearest program the error falls strictly. -/
theorem clockError_lt_of_le_nearestProgram {C : Config} (hpos : 0 < C.fRef) {target k k' : Nat}
    (hnearest : k ≤ nearestProgram C target) (hk : k' < k) : clockError C target k < clockError C target k' := by
  have habove := (nearestProgram_bounds hpos target).2
  have hend := Nat.mul_le_mul_left C.fRef hnearest
  have hnext : C.fRef * k' + C.fRef ≤ C.fRef * k := Nat.mul_le_mul_left C.fRef hk
  rw [clockError_eq, clockError_eq]
  omega

/-- R142: clamping raises the nearest program only to the bottom of the range. -/
theorem searchK_le_nearestProgram {C : Config} {target : Nat} (h : C.divMin * C.denom0 < searchK C target) :
    searchK C target ≤ nearestProgram C target := by
  unfold searchK at h ⊢
  omega

/-- R142: clamping lowers the nearest program only to the top of the range. -/
theorem nearestProgram_le_searchK {C : Config} {target : Nat}
    (h : searchK C target < C.divMax * C.denom0 + C.denom0 - 1) : nearestProgram C target ≤ searchK C target := by
  unfold searchK at h ⊢
  omega

/-- R142: no reachable program lies between the nearest program and the clamped one, and the error grows from the
clamped one on either side. -/
theorem searchK_minimises {C : Config} (hpos : 0 < C.fRef) {target k : Nat} (hlo : C.divMin * C.denom0 ≤ k)
    (hhi : k ≤ C.divMax * C.denom0 + C.denom0 - 1) :
    clockError C target (searchK C target) ≤ clockError C target k
    ∧ (clockError C target (searchK C target) = clockError C target k → searchK C target ≤ k) := by
  obtain hk | rfl | hk := Nat.lt_trichotomy k (searchK C target)
  · have hlt := clockError_lt_of_le_nearestProgram hpos (searchK_le_nearestProgram (hlo.trans_lt hk)) hk
    exact ⟨hlt.le, fun heq => absurd heq hlt.ne⟩
  · exact ⟨le_rfl, fun _ => le_rfl⟩
  · have hnearest := nearestProgram_le_searchK (hk.trans_le hhi)
    exact ⟨clockError_le_of_nearestProgram_le hpos hnearest hk.le, fun _ => hk.le⟩

theorem clkSearch_program (C : Config) (target : Nat) :
    (clkSearch C target).1 * C.denom0 + (clkSearch C target).2 = searchK C target :=
  Nat.div_add_mod' (searchK C target) C.denom0

/-- Settles O22: the pair is the program `searchK`, and every pair in range is a program of the interval it is clamped
to. -/
theorem clockSearchMinimises : Obligations.ClockSearchMinimises := by
  unfold Obligations.ClockSearchMinimises
  intro C target d n hlegal
  obtain ⟨hmin, hmax, hnum⟩ := clkSearch_bounds hlegal target
  refine ⟨hmin, hmax, hnum, fun hd hd' hn => ?_⟩
  have hlo := Nat.mul_le_mul_right C.denom0 hd
  have hhi := Nat.mul_le_mul_right C.denom0 hd'
  rw [clkSearch_program]
  exact searchK_minimises hlegal.fRef_pos (by omega) (by omega)

/-! ## CLK_PROGRAM (R143) -/

theorem exec_clkProgram_of_idle {target : Word} {s : State} (hidle : s.idle = true) :
    exec (.clkProgram target) s =
      settle (andThen (programClock Config.chip target.toNat s) fun r => .next r.2) :=
  if_pos hidle

/-- Settles O23: PLL_CTRL ends with LOCK as drawn and ENABLE set, each write leaving every other bit as it was. -/
theorem clkProgramResult : Obligations.ClkProgramResult := by
  unfold Obligations.ClkProgramResult
  intro target s hidle hquiet
  refine ⟨setFlag (setFlag s.pll.ctrl 31 (Config.chip.lockOk s.draws)) 0 true, ?_, ?_, ?_, fun i hlo hhi => ?_⟩
  · rw [exec_clkProgram_of_idle hidle, programClock_quiet Config.chip target.toNat hquiet]
    rfl
  · exact getFlag_setFlag_same _ 0 true (by decide)
  · exact (getFlag_setFlag_ne _ 0 31 true (by decide) (by decide)).trans (getFlag_setFlag_same _ 31 _ (by decide))
  · exact (getFlag_setFlag_ne _ 0 i true (by decide) (by omega)).trans
      (getFlag_setFlag_ne _ 31 i _ (by decide) (by omega))

/-! ## PLL_LOCK (R147) -/

theorem exec_pllLock (s : State) : exec .pllLock s = .next (lockPll s) := rfl

theorem lockPll_of_enabled {s : State} (h : s.pllEnabled = true ∧ s.pllLocked = false) :
    lockPll s = s.setPllLock true :=
  if_pos (by simpa using h)

theorem lockPll_of_not_enabled {s : State} (h : ¬ (s.pllEnabled = true ∧ s.pllLocked = false)) : lockPll s = s :=
  if_neg (by simpa using h)

/-- Settles O24: the step where its precondition holds, and the step not taken. -/
theorem pllLockResult : Obligations.PllLockResult := by
  unfold Obligations.PllLockResult
  intro s
  rw [exec_pllLock]
  split
  next h => rw [lockPll_of_enabled h]; rfl
  next h => rw [lockPll_of_not_enabled h]

/-! ## TWEAK (R150) -/

theorem exec_tweak_of_running {s : State} (hrunning : s.running = true) (shiftDelta numDelta denomDelta : Half) :
    exec (.tweak shiftDelta numDelta denomDelta) s =
      .next (tweakClock numDelta denomDelta (tweakShift Config.chip shiftDelta s)) :=
  if_pos hrunning

theorem exec_tweak_of_not_running {s : State} (hidle : s.running = false) (shiftDelta numDelta denomDelta : Half) :
    exec (.tweak shiftDelta numDelta denomDelta) s = .next s :=
  if_neg (Bool.eq_false_iff.1 hidle)

/-- R150: what the shift half leaves in SHIFT. -/
def tweakedShift (C : Config) (delta : Half) (r : Word) : Word :=
  let v : Int := r.toNat + s16 delta
  if 0 ≤ v ∧ v ≤ C.shiftMax then BitVec.ofInt 32 v else r

/-- R150: what the clock half leaves in the registers of the clock program. -/
def tweakedPll (numDelta denomDelta : Half) (p : Pll) : Pll :=
  let n : Int := p.num.toNat + s16 numDelta
  let d : Int := p.denom.toNat + s16 denomDelta
  if 1 ≤ d ∧ d < 2 ^ 32 ∧ 0 ≤ n ∧ n < d then { p with num := BitVec.ofInt 32 n, denom := BitVec.ofInt 32 d } else p

/-- R150: the shift half writes SHIFT alone. -/
theorem tweakShift_eq (C : Config) (delta : Half) (s : State) :
    tweakShift C delta s = { s with shift := tweakedShift C delta s.shift } := by
  simp only [tweakShift, tweakedShift]
  split_ifs <;> rfl

/-- R150: the clock half writes NUM and DENOM alone. -/
theorem tweakClock_eq (numDelta denomDelta : Half) (s : State) :
    tweakClock numDelta denomDelta s = { s with pll := tweakedPll numDelta denomDelta s.pll } := by
  simp only [tweakClock, tweakedPll]
  split_ifs <;> rfl

/-- Settles O25: neither half reads or writes a register of the other, so each is what it is on its own. -/
theorem tweakResult : Obligations.TweakResult := by
  unfold Obligations.TweakResult
  intro shiftDelta numDelta denomDelta s shift num denom
  refine ⟨fun hidle => exec_tweak_of_not_running hidle _ _ _, fun hrunning => ?_⟩
  rw [exec_tweak_of_running hrunning, tweakShift_eq, tweakClock_eq]
  rfl

end Sys2Proof.Machine
end

section
/-! The framer's pixel clock (spec/42_dma_pipeline.md R173): one equation per case, the samples it shows (R34), and the
colours of a whole line (R174). -/

namespace Sys2Proof.Machine

/-! ## A pixel clock (R173) -/

section
variable {C : Config} {s : State}

theorem pixelClock_of_inactive (hactive : s.frmActive = false) : pixelClock C s = s :=
  if_neg (Bool.eq_false_iff.1 hactive)

theorem pixelClock_of_lineEnd (hactive : s.frmActive = true)
    (hend : s.frm.px.toNat = s.mode.stride.toNat + C.skew s.mode.modeId.toNat) :
    pixelClock C s =
      ({ s with frm := { ((s.frm.setActive false).setCorrupt false) with color := 0 } }).record :=
  (if_pos hactive).trans (if_pos hend)

theorem pixelClock_of_corrupt (hactive : s.frmActive = true)
    (hend : s.frm.px.toNat ≠ s.mode.stride.toNat + C.skew s.mode.modeId.toNat) (hcorrupt : s.frmCorrupt = true) :
    pixelClock C s =
      ({ s with
        frm := { s.frm with
          color := zextByte (C.corruptColour s.draws), px := BitVec.ofNat 32 (s.frm.px.toNat + 1) }
        draws := s.draws + 1 }).record :=
  (if_pos hactive).trans <| (if_neg hend).trans (if_pos hcorrupt)

theorem pixelClock_of_ready (hactive : s.frmActive = true)
    (hend : s.frm.px.toNat ≠ s.mode.stride.toNat + C.skew s.mode.modeId.toNat) (hclean : s.frmCorrupt = false)
    (hready : lanesReady s s.frm.px.toNat s.mode.stride.toNat (C.skew s.mode.modeId.toNat) = true) :
    pixelClock C s =
      ({ s with
        frm := { s.frm with
          color := lanes s s.frm.px.toNat s.mode.stride.toNat (C.skew s.mode.modeId.toNat)
          px := BitVec.ofNat 32 (s.frm.px.toNat + 1) } }).record :=
  (if_pos hactive).trans <| (if_neg hend).trans <| (if_neg (Bool.eq_false_iff.1 hclean)).trans (if_pos hready)

theorem pixelClock_of_held (hactive : s.frmActive = true)
    (hend : s.frm.px.toNat ≠ s.mode.stride.toNat + C.skew s.mode.modeId.toNat) (hclean : s.frmCorrupt = false)
    (hheld : lanesReady s s.frm.px.toNat s.mode.stride.toNat (C.skew s.mode.modeId.toNat) = false) :
    pixelClock C s = s :=
  (if_pos hactive).trans <| (if_neg hend).trans <| (if_neg (Bool.eq_false_iff.1 hclean)).trans
    (if_neg (Bool.eq_false_iff.1 hheld))

end

/-! ## The samples of a pixel clock (R34) -/

theorem extractLsb_zextByte (b : Byte) : (zextByte b).extractLsb' 0 8 = b := by
  refine BitVec.eq_of_getLsbD_eq fun i hi => ?_
  have h32 : i < 32 := by omega
  simp [zextByte, hi, h32]

/-- The sample taken while COLOR holds the byte `b`. -/
theorem record_of_color {s : State} {b : Byte} (hcolor : s.frm.color = zextByte b) :
    s.record = { s with shown := { hsync := s.tmrOut, vsync := s.vsync, color := b } :: s.shown } := by
  rw [State.record, State.sample, hcolor, extractLsb_zextByte]

theorem lanesReady_iff (s : State) (t len k : Nat) :
    lanesReady s t len k = true ↔ (t < len → t < s.stream0.length) ∧ (k ≤ t → t - k < s.stream1.length) := by
  simp only [lanesReady, Bool.and_eq_true, Bool.or_eq_true, Bool.not_eq_true', decide_eq_true_eq,
    decide_eq_false_iff_not, ← imp_iff_not_or]

theorem exec_shiftOut (s : State) : exec .shiftOut s = .next (pixelClock Config.chip s) := rfl

/-- Settles O34: the five cases of a pixel clock, each with the colour of its sample. -/
theorem shiftOutResult : Obligations.ShiftOutResult := by
  unfold Obligations.ShiftOutResult
  intro s t len k lane1 lane0 showing
  rw [exec_shiftOut]
  by_cases hidle : s.frmActive = false
  · rw [if_pos hidle, pixelClock_of_inactive hidle]
  have hactive : s.frmActive = true := Bool.eq_true_of_not_eq_false hidle
  rw [if_neg hidle]
  by_cases hend : t = len + k
  · rw [if_pos hend, pixelClock_of_lineEnd hactive hend, record_of_color (b := 0) rfl]
    rfl
  rw [if_neg hend]
  by_cases hcorrupt : s.frmCorrupt = true
  · rw [if_pos hcorrupt, pixelClock_of_corrupt hactive hend hcorrupt, record_of_color rfl]
    rfl
  have hclean : s.frmCorrupt = false := Bool.eq_false_iff.2 hcorrupt
  rw [if_neg hcorrupt]
  by_cases hready : (t < len → t < s.stream0.length) ∧ (k ≤ t → t - k < s.stream1.length)
  · rw [if_pos hready, pixelClock_of_ready hactive hend hclean ((lanesReady_iff s t len k).2 hready),
      record_of_color rfl]
    rfl
  · rw [if_neg hready,
      pixelClock_of_held hactive hend hclean (Bool.eq_false_iff.2 (mt (lanesReady_iff s t len k).1 hready))]

/-! ## The colours of a line (R173, R174) -/

/-- R162: the low four colour pins carry the low half of the primary lane's byte. -/
theorem lanes_getLsbD_low (s : State) (t len k : Nat) {i : Nat} (hi : i < 4) :
    (lanes s t len k).getLsbD i = (decide (t < len) && (s.stream0.getD t 0).getLsbD i) := by
  have h32 : i < 32 := by omega
  rw [lanes, zextByte, BitVec.getLsbD_setWidth, decide_eq_true h32, Bool.true_and, BitVec.getLsbD_append, if_pos hi]
  split
  next hin => simp [hin, hi]
  next hout => simp [hout]

/-- R162: the high four carry the high half of the secondary lane's byte. -/
theorem lanes_getLsbD_high (s : State) (t len k : Nat) {i : Nat} (hlo : 4 ≤ i) (hi : i < 8) :
    (lanes s t len k).getLsbD i = (decide (k ≤ t) && (s.stream1.getD (t - k) 0).getLsbD i) := by
  have h32 : i < 32 := by omega
  have hlane : i - 4 < 4 := by omega
  rw [lanes, zextByte, BitVec.getLsbD_setWidth, decide_eq_true h32, Bool.true_and, BitVec.getLsbD_append,
    if_neg (by omega)]
  split
  next hin => simp [hin, hlane, Nat.add_sub_cancel' hlo]
  next hout => simp [hout]

/-- An operation that always goes on, some times in a row. -/
theorem times_next (f : State → State) (n : Nat) : ∀ s, times (fun x => .next (f x)) n s = .next (f^[n] s) := by
  induction n with
  | zero => exact fun _ => rfl
  | succ n ih => exact fun s => ih (f s)

/-- Where the framer stands after `t` pixel clocks of the line that `s` is at the start of. -/
structure AtPixel (s : State) (t : Nat) (u : State) : Prop where
  mode : u.mode = s.mode
  stream0 : u.stream0 = s.stream0
  stream1 : u.stream1 = s.stream1
  active : u.frmActive = true
  clean : u.frmCorrupt = false
  px : u.frm.px.toNat = t

section
variable {C : Config} {s : State} (hbound : s.mode.stride.toNat + C.skew s.mode.modeId.toNat < 2 ^ 32)
  (hlen0 : s.stream0.length = s.mode.stride.toNat) (hlen1 : s.stream1.length = s.mode.stride.toNat)
include hbound hlen0 hlen1

/-- R173: with complete streams no pixel of the line is held. -/
theorem AtPixel.advance {t : Nat} {u : State} (h : AtPixel s t u)
    (ht : t < s.mode.stride.toNat + C.skew s.mode.modeId.toNat) :
    AtPixel s (t + 1) (pixelClock C u)
      ∧ (pixelClock C u).frm.color = lanes s t s.mode.stride.toNat (C.skew s.mode.modeId.toNat) := by
  obtain ⟨hmode, hstream0, hstream1, hactive, hclean, rfl⟩ := h
  have hready : lanesReady u u.frm.px.toNat u.mode.stride.toNat (C.skew u.mode.modeId.toNat) = true := by
    rw [lanesReady_iff, hstream0, hstream1, hlen0, hlen1, hmode]
    exact ⟨id, fun hk => by omega⟩
  rw [pixelClock_of_ready hactive (by rw [hmode]; omega) hclean hready]
  refine ⟨⟨hmode, hstream0, hstream1, hactive, hclean, ?_⟩, ?_⟩
  · exact toNat_ofNat_of_lt (by omega)
  · simp only [State.record_frm, lanes, hmode, hstream0, hstream1]

theorem AtPixel.iterate (hs : AtPixel s 0 s) :
    ∀ t, t ≤ s.mode.stride.toNat + C.skew s.mode.modeId.toNat → AtPixel s t ((pixelClock C)^[t] s) := by
  intro t
  induction t with
  | zero => exact fun _ => hs
  | succ t ih =>
    intro ht
    rw [Function.iterate_succ_apply']
    exact ((ih (by omega)).advance hbound hlen0 hlen1 ht).1

end

/-- Settles O35: every pixel clock of a complete line shows its pixel and goes on to the next, up to the clock that ends
the line. -/
theorem lineOfColours : Obligations.LineOfColours := by
  unfold Obligations.LineOfColours
  intro C s len k hactive hclean hpx hbound hlen0 hlen1
  have hstart : AtPixel s 0 s := ⟨rfl, rfl, rfl, hactive, hclean, by rw [hpx]; rfl⟩
  have hpixel := AtPixel.iterate hbound hlen0 hlen1 hstart
  refine ⟨fun t ht => ?_, ?_⟩
  · obtain ⟨hnext, hcolor⟩ := (hpixel t ht.le).advance hbound hlen0 hlen1 ht
    rw [← Function.iterate_succ_apply' (pixelClock C)] at hnext hcolor
    refine ⟨_, times_next _ _ _, hnext.active, hnext.px, fun i hi => ?_, fun i hlo hi => ?_⟩
    · rw [hcolor, lanes_getLsbD_low s t _ _ hi]
    · rw [hcolor, lanes_getLsbD_high s t _ _ hlo hi]
  · have hlast := hpixel (len + k) le_rfl
    refine ⟨_, times_next _ _ _, ?_⟩
    rw [Function.iterate_succ_apply',
      pixelClock_of_lineEnd hlast.active (by rw [hlast.px, hlast.mode])]
    exact ⟨(getFlag_setFlag_ne _ 1 0 _ (by decide) (by decide)).trans (getFlag_setFlag_same _ 0 _ (by decide)), rfl⟩

end Sys2Proof.Machine
end

section
/-! FRAME_START and VSYNC, and the colour pins between two lines, in every step (spec/43_scanline_driver.md R198,
spec/42_dma_pipeline.md R176): each is kept by every agent's step and every register write. -/

namespace Sys2Proof.Machine

/-! ## FRAME_START and VSYNC (R198) -/

theorem syncFlagsAgree.of_flags {s t : State} (h : syncFlagsAgree s) (hflags : t.flags = s.flags) :
    syncFlagsAgree t := by
  simpa only [syncFlagsAgree, State.frameStart, State.vsync, hflags] using h

theorem syncFlagsAgree_of_cleared {s : State} (hflags : s.flags = 0) : syncFlagsAgree s := by
  rw [syncFlagsAgree, State.frameStart, State.vsync, hflags]
  rfl

/-- A write to another flag leaves the two alone. -/
theorem syncFlagsAgree.setFlags {s : State} (h : syncFlagsAgree s) {i : Nat} (v : Bool) (hlo : 1 < i) (hi : i < 32) :
    syncFlagsAgree (s.setFlags i v) :=
  (getFlag_setFlag_ne _ i 0 v hi (by omega)).trans (h.trans (getFlag_setFlag_ne _ i 1 v hi (by omega)).symm)

/-- R195 step 3 writes one value to both. -/
theorem syncFlagsAgree_markFrameStart (s : State) : syncFlagsAgree (markFrameStart s) :=
  (getFlag_setFlag_same _ 0 _ (by decide)).trans
    ((getFlag_setFlag_ne _ 0 1 _ (by decide) (by decide)).trans (getFlag_setFlag_same _ 1 _ (by decide))).symm

/-- R221 step 7 clears both. -/
theorem syncFlagsAgree_startTimer (C : Config) (s : State) : syncFlagsAgree (startTimer C s) := by
  have hstart : (startTimer C s).frameStart = false :=
    (getFlag_setFlag_ne _ 2 0 _ (by decide) (by decide)).trans <|
      (getFlag_setFlag_ne _ 1 0 _ (by decide) (by decide)).trans (getFlag_setFlag_same _ 0 _ (by decide))
  have hvsync : (startTimer C s).vsync = false :=
    (getFlag_setFlag_ne _ 2 1 _ (by decide) (by decide)).trans (getFlag_setFlag_same _ 1 _ (by decide))
  exact hstart.trans hvsync.symm

/-- Only LINE_TICK, BEGIN and END write the two, and each writes them alike. -/
theorem RegisterWrite.syncFlagsAgree {C : Config} {k : WriteClass} {s t : State} (hw : RegisterWrite C k s t)
    (h : syncFlagsAgree s) : syncFlagsAgree t := by
  cases hw with
  | unaligned _ v => exact h.setFlags v (by decide) (by decide)
  | mask _ v => exact h.setFlags v (by decide) (by decide)
  | frameStart => exact syncFlagsAgree_markFrameStart s
  | startTimer => exact syncFlagsAgree_startTimer C s
  | clearRegisters => exact syncFlagsAgree_of_cleared rfl
  | tweakShift _ delta => rcases tweakShift_cases C delta s with e | ⟨v, -, e⟩ <;> rw [e] <;> exact h
  | tweakClock _ num denom => rcases tweakClock_cases num denom s with e | ⟨n, d, -, e⟩ <;> rw [e] <;> exact h
  | allocate => rcases allocate_cases C s with e | ⟨a, -, -, e⟩ <;> rw [e] <;> exact h
  | geometry _ c d hdcsr => exact h.of_flags (State.setChan_flags s c d)
  | control _ c i v hi => exact h.of_flags (State.setChan_flags s c _)
  | stream _ c => exact h.of_flags (State.setStream_flags s c _)
  | _ => exact h

theorem syncFlagsAgree_rel (C : Config) (ks : List WriteClass) :
    WriteRel C ks (fun s t => syncFlagsAgree s → syncFlagsAgree t) :=
  ⟨agentRel_of_frame_imp C fun _ _ hframe h => h.of_flags hframe.flags, fun _ hw => hw.syncFlagsAgree⟩

/-! ## The idle colour pins (R176) -/

theorem idleIsBlack.of_frm {s t : State} (h : idleIsBlack s) (hfrm : t.frm = s.frm) : idleIsBlack t := by
  simpa only [idleIsBlack, State.frmActive, hfrm] using h

theorem idleIsBlack_of_active {s : State} (hactive : s.frmActive = true) : idleIsBlack s :=
  fun hidle => absurd (hactive.symm.trans hidle) (by decide)

/-- A pixel clock shows a colour only on a line it leaves active, and ends a line in black. -/
theorem idleIsBlack_pixelClock (C : Config) {s : State} (h : idleIsBlack s) : idleIsBlack (pixelClock C s) := by
  cases hactive : s.frmActive with
  | false => rwa [pixelClock_of_inactive hactive]
  | true =>
    by_cases hend : s.frm.px.toNat = s.mode.stride.toNat + C.skew s.mode.modeId.toNat
    · rw [pixelClock_of_lineEnd hactive hend]
      exact fun _ => rfl
    cases hcorrupt : s.frmCorrupt with
    | true =>
      rw [pixelClock_of_corrupt hactive hend hcorrupt]
      exact idleIsBlack_of_active hactive
    | false =>
      cases hready : lanesReady s s.frm.px.toNat s.mode.stride.toNat (C.skew s.mode.modeId.toNat) with
      | true =>
        rw [pixelClock_of_ready hactive hend hcorrupt hready]
        exact idleIsBlack_of_active hactive
      | false => rwa [pixelClock_of_held hactive hend hcorrupt hready]

/-- The other agents leave the framer alone. -/
theorem idleIsBlack_agentRel (C : Config) : AgentRel C (fun s t => idleIsBlack s → idleIsBlack t) where
  refl := fun _ h => h
  trans := fun _ _ _ hst htu h => htu (hst h)
  timer := fun s h => by
    rcases timerClock_cases s with ⟨-, e⟩ | ⟨-, e⟩ <;> rw [e]
    · exact h
    · exact h.of_frm rfl
  lock := fun s h => by
    rw [lockPll]
    split
    · exact h.of_frm rfl
    · exact h
  pixel := fun _ h => idleIsBlack_pixelClock C h
  write := fun a s h => by rw [writeBack_eq]; exact h
  draw := fun _ _ h => h
  finish := fun c bytes s h => h.of_frm (by simp [finishBeat, writePort])
  schedule := fun _ _ _ _ h => h

/-- DMA_ENABLE starts a line, DMA_DISABLE ends one in black; no other register write touches ACTIVE or COLOR. -/
theorem RegisterWrite.idleIsBlack {C : Config} {k : WriteClass} {s t : State} (hw : RegisterWrite C k s t)
    (h : idleIsBlack s) : idleIsBlack t := by
  cases hw with
  | active => exact idleIsBlack_of_active (getFlag_setFlag_same _ 0 true (by decide))
  | corrupt _ v => exact fun hidle => h ((getFlag_setFlag_ne _ 1 0 v (by decide) (by decide)).symm.trans hidle)
  | disarm => exact fun _ => rfl
  | tweakShift _ delta => rcases tweakShift_cases C delta s with e | ⟨v, -, e⟩ <;> rw [e] <;> exact h
  | tweakClock _ num denom => rcases tweakClock_cases num denom s with e | ⟨n, d, -, e⟩ <;> rw [e] <;> exact h
  | allocate => rcases allocate_cases C s with e | ⟨a, -, -, e⟩ <;> rw [e] <;> exact h
  | geometry _ c d hdcsr => exact h.of_frm (State.setChan_frm s c d)
  | control _ c i v hi => exact h.of_frm (State.setChan_frm s c _)
  | stream _ c => exact h.of_frm (State.setStream_frm s c _)
  | _ => exact h

theorem idleIsBlack_rel (C : Config) (ks : List WriteClass) :
    WriteRel C ks (fun s t => idleIsBlack s → idleIsBlack t) :=
  ⟨idleIsBlack_agentRel C, fun _ hw => hw.idleIsBlack⟩

/-! ## Every step -/

/-- A property of the state that every agent's step and every register write keep and that holds after RESET, every
step keeps, if it reads neither the ports nor the agenda. -/
theorem step_keeps_of_rel {P : State → Prop} (hrel : ∀ ks, WriteRel Config.chip ks (fun s t => P s → P t))
    (hports : ∀ s agenda cmd data, P s → P (s.withPorts agenda cmd data)) (hreset : ∀ s, P (resetEvent s))
    {s t : State} (hs : P s) (h : step s = .next t) : P t := by
  refine step_keeps (R := fun s t => P s → P t) (fun _ _ _ hst htu h => htu (hst h)) hports (fun i s t e => ?_)
    (fun s _ => hreset s) h hs
  rcases exec_keeps (hrel _) e with hst | ⟨u, -, rfl⟩
  · exact hst
  · exact fun _ => hreset u

/-- Settles O15: the two flags are written together, and a colour is shown on an active line alone. -/
theorem stepKeepsSyncAndBlack : Obligations.StepKeepsSyncAndBlack := by
  unfold Obligations.StepKeepsSyncAndBlack
  intro s t hsync hblack h
  exact ⟨step_keeps_of_rel (syncFlagsAgree_rel _) (fun _ _ _ _ h => h) (fun _ => syncFlagsAgree_of_cleared rfl) hsync h,
    step_keeps_of_rel (idleIsBlack_rel _) (fun _ _ _ _ h => h) (fun _ _ => rfl) hblack h⟩

end Sys2Proof.Machine
end

section
/-! The DMA operations with nothing interposed (spec/42_dma_pipeline.md): what DMA_CONFIGURE, DMA_ENABLE, DMA_DISABLE and
DMA_REPROGRAM write (R163 to R168), and what a beat reads and where it leaves the descriptor (R82, R169, R170). -/

namespace Sys2Proof.Machine

/-! ## The geometry of the secondary channel (R167, R302) -/

theorem granular_of_mod_eq_zero {s : State} (hgran : s.mode.gran ≠ 0)
    (hmod : s.mode.stride.toNat % s.mode.gran.toNat = 0) : s.granular = true := by
  have hpos : s.mode.gran.toNat ≠ 0 := fun h => hgran (BitVec.eq_of_toNat_eq h)
  simp [State.granular, hpos, hmod]

theorem modeWritten_iff (s : State) : s.modeWritten = true ↔ s.mode.gran ≠ 0 := by
  simp [State.modeWritten]

theorem shiftAligned_eq (s : State) : s.shiftAligned = decide (s.shift.toNat % s.mode.gran.toNat = 0) := rfl

/-! ## DMA_CONFIGURE (R163) -/

theorem configureEnabled_iff (s : State) :
    configureEnabled s = true ↔
      s.idle = true ∧ s.mode.gran ≠ 0 ∧ s.fbValid = true ∧ s.dma0.erq = false ∧ s.dma1.erq = false := by
  simp only [configureEnabled, Bool.and_eq_true, Bool.not_eq_true', modeWritten_iff, and_assoc]

theorem exec_dmaConfigure_of_enabled {s : State} (henabled : configureEnabled s = true) :
    exec .dmaConfigure s = settle (configure Config.chip s) :=
  if_pos henabled

theorem exec_dmaConfigure_of_not_enabled {s : State} (hdisabled : ¬ configureEnabled s = true) :
    exec .dmaConfigure s = .next s :=
  if_neg hdisabled

/-- R163: a disarmed channel stays disarmed, so of DCSR only DREQ and DONE change. -/
theorem configured_dcsr {d : Descriptor} (hdisarmed : d.erq = false) :
    (((d.setDreq true).setErq false).setDone false).dcsr = setFlag (setFlag d.dcsr 1 true) 2 false := by
  have herq : getFlag (setFlag d.dcsr 1 true) 0 = false :=
    (getFlag_setFlag_ne _ 1 0 true (by decide) (by decide)).trans hdisarmed
  show setFlag (setFlag (setFlag d.dcsr 1 true) 0 false) 2 false = _
  rw [setFlag_of_getFlag (by decide) herq]

/-- Settles O26: R163's writes, where the two channels are disarmed already. -/
theorem dmaConfigureResult : Obligations.DmaConfigureResult := by
  unfold Obligations.DmaConfigureResult
  intro s
  constructor
  · intro hidle hgran hvalid hdisarmed0 hdisarmed1 hmod hquiet aligned beats beats1
    rw [exec_dmaConfigure_of_enabled ((configureEnabled_iff s).2 ⟨hidle, hgran, hvalid, hdisarmed0, hdisarmed1⟩),
      configure_quiet _ (granular_of_mod_eq_zero hgran hmod) hquiet, configured_dcsr hdisarmed0,
      configured_dcsr hdisarmed1]
    rfl
  · intro hfails
    refine exec_dmaConfigure_of_not_enabled fun henabled => ?_
    obtain ⟨hidle, hgran, hvalid, hdisarmed0, hdisarmed1⟩ := (configureEnabled_iff s).1 henabled
    exact hgran (by simpa [hidle, hvalid, hdisarmed0, hdisarmed1] using hfails)

/-! ## DMA_ENABLE and DMA_DISABLE (R165, R166) -/

theorem exec_dmaEnable_of_running {s : State} (hrunning : s.running = true) :
    exec .dmaEnable s = settle (arm Config.chip s) :=
  if_pos hrunning

theorem exec_dmaEnable_of_not_running {s : State} (hidle : s.running = false) : exec .dmaEnable s = .next s :=
  if_neg (Bool.eq_false_iff.1 hidle)

/-- Settles O27: R165's writes, the overrun as it stands at their start. -/
theorem dmaEnableResult : Obligations.DmaEnableResult := by
  unfold Obligations.DmaEnableResult
  intro s overrun
  refine ⟨fun hrunning hquiet => ?_, exec_dmaEnable_of_not_running⟩
  rw [exec_dmaEnable_of_running hrunning, arm_quiet _ hquiet]
  rfl

theorem exec_dmaDisable (s : State) : exec .dmaDisable s = .next (disarm s) := rfl

/-- Settles O28: DMA_DISABLE is one indivisible step (R317). -/
theorem dmaDisableResult : Obligations.DmaDisableResult := by
  unfold Obligations.DmaDisableResult
  intro s
  rw [exec_dmaDisable]
  rfl

/-! ## DMA_REPROGRAM (R167) -/

theorem exec_dmaReprogram_of_written {s : State} (hgran : s.mode.gran ≠ 0) (p : Word) :
    exec (.dmaReprogram p) s = settle (reprogram Config.chip p s) :=
  if_pos ((modeWritten_iff s).2 hgran)

theorem exec_dmaReprogram_of_not_written {s : State} (hgran : s.mode.gran = 0) (p : Word) :
    exec (.dmaReprogram p) s = .next s :=
  if_neg fun hwritten => (modeWritten_iff s).1 hwritten hgran

/-- Settles O29: the beat geometry of the secondary channel is one of two, by the alignment of SHIFT. -/
theorem dmaReprogramResult : Obligations.DmaReprogramResult := by
  unfold Obligations.DmaReprogramResult
  intro p s
  refine ⟨fun hgran hmod hquiet => ?_, fun hgran => exec_dmaReprogram_of_not_written hgran p⟩
  rw [exec_dmaReprogram_of_written hgran, reprogram_quiet _ p (granular_of_mod_eq_zero hgran hmod) hquiet, settle_next]
  split
  next haligned =>
    have h : s.shiftAligned = true := (shiftAligned_eq s).trans (decide_eq_true haligned)
    simp only [State.secondaryBeat, State.secondaryCount, h]
    rfl
  next hunaligned =>
    have h : s.shiftAligned = false := (shiftAligned_eq s).trans (decide_eq_false hunaligned)
    simp only [State.secondaryBeat, State.secondaryCount, h]
    rfl

/-! ## The descriptor after a beat (R169) -/

theorem advanceDescriptor_of_more {d : Descriptor} (hmore : d.rem ≠ 1) :
    advanceDescriptor d = { d with saddr := d.saddr + d.beat, rem := d.rem - 1 } :=
  if_neg fun hzero => hmore (BitVec.sub_eq_iff_eq_add.1 hzero)

/-- R169, R170: the last beat of a line. -/
theorem advanceDescriptor_of_last {d : Descriptor} (hlast : d.rem = 1) :
    advanceDescriptor d =
      { d with
        saddr := d.saddr + d.beat + d.slast, rem := d.count
        dcsr := if d.dreq = true then setFlag (setFlag d.dcsr 2 true) 0 false else setFlag d.dcsr 2 true } := by
  have hzero : d.rem - 1 = 0 := by rw [hlast]; rfl
  have hdreq : getFlag (setFlag d.dcsr 2 true) 1 = d.dreq := getFlag_setFlag_ne _ 2 1 true (by decide) (by decide)
  refine (if_pos hzero).trans ?_
  show (if getFlag (setFlag d.dcsr 2 true) 1 = true then _ else _) = _
  rw [hdreq]
  split <;> rfl

/-! ## One beat (R82, R169) -/

theorem beatEnabled_iff (c : Channel) (s : State) :
    beatEnabled c s = true ↔ (s.chan c).erq = true ∧ 0 < (s.chan c).rem.toNat := by
  simp only [beatEnabled, Bool.and_eq_true, decide_eq_true_eq]

theorem exec_dmaBeat_of_enabled {c : Channel} {s : State} (henabled : beatEnabled c s = true) :
    exec (.dmaBeat c) s = settle (beat Config.chip c s) :=
  if_pos henabled

theorem exec_dmaBeat_of_not_enabled {c : Channel} {s : State} (hdisabled : ¬ beatEnabled c s = true) :
    exec (.dmaBeat c) s = .next s :=
  if_neg hdisabled

theorem beatRefusal_eq_none {c : Channel} {s : State} (hgranular : s.granular = true)
    (haligned : (s.chan c).beat.toNat ≤ 1 ∨ (s.chan c).saddr.toNat % (s.chan c).beat.toNat = 0) :
    beatRefusal c s = none := by
  simp [beatRefusal, beatAligned, hgranular, haligned]

theorem closeBeats_empty (C : Config) (s : State) : closeBeats C .empty s = s := rfl

theorem finishBeat_eq (c : Channel) (bytes : List Byte) (s : State) :
    finishBeat c bytes s = (s.setStream c (s.stream c ++ bytes)).setChan c (advanceDescriptor (s.chan c)) := by
  rw [finishBeat, writePort, State.chan_setStream]

/-- R82: the `n` bytes of `MEM` from address `a` on. -/
def memBytes (C : Config) (s : State) (a n : Nat) : List Byte := (List.range n).map fun i => memByte C s (a + i)

theorem memBytes_append (C : Config) (s : State) (a m n : Nat) :
    memBytes C s a m ++ memBytes C s (a + m) n = memBytes C s a (m + n) := by
  simp [memBytes, List.range_add, Nat.add_assoc]

/-- R169, R82, with no turn in the gaps: what a beat delivers, and what it leaves. -/
theorem exec_dmaBeat_quiet {c : Channel} {s : State} (henabled : beatEnabled c s = true)
    (hrefusal : beatRefusal c s = none) (hquiet : s.quiet) :
    ∃ bytes draws, bytes.length = (s.chan c).beat.toNat
      ∧ (∀ i, i < (s.chan c).beat.toNat → s.inFrameBuffer ((s.chan c).saddr.toNat + i) = true →
          bytes[i]? = some (memByte Config.chip s ((s.chan c).saddr.toNat + i)))
      ∧ ((∀ i, i < (s.chan c).beat.toNat → s.inFrameBuffer ((s.chan c).saddr.toNat + i) = true) → draws = s.draws)
      ∧ exec (.dmaBeat c) s = .next (finishBeat c bytes { s with draws := draws }) := by
  obtain ⟨bytes, draws, hread, hlength, hbytes, hdraws⟩ :=
    beatBytes_quiet Config.chip c (s.chan c).beat.toNat (s.chan c).saddr.toNat [] .empty s hquiet
  refine ⟨bytes, draws, hlength, hbytes, hdraws, ?_⟩
  rw [exec_dmaBeat_of_enabled henabled, beat, hrefusal]
  simp only [hread, andThen_next, closeBeats_empty, settle_next, List.nil_append]

/-- A beat that reads inside the frame buffer alone takes no draw. -/
theorem exec_dmaBeat_of_inside {c : Channel} {s : State} (henabled : beatEnabled c s = true)
    (hrefusal : beatRefusal c s = none) (hquiet : s.quiet)
    (hinside : ∀ i, i < (s.chan c).beat.toNat → s.inFrameBuffer ((s.chan c).saddr.toNat + i) = true) :
    exec (.dmaBeat c) s =
      .next (finishBeat c (memBytes Config.chip s (s.chan c).saddr.toNat (s.chan c).beat.toNat) s) := by
  obtain ⟨bytes, draws, hlength, hbytes, hdraws, hexec⟩ := exec_dmaBeat_quiet henabled hrefusal hquiet
  have hread : bytes = memBytes Config.chip s (s.chan c).saddr.toNat (s.chan c).beat.toNat := by
    refine List.ext_getElem? fun i => ?_
    by_cases hi : i < (s.chan c).beat.toNat
    · rw [hbytes i hi (hinside i hi)]
      simp [memBytes, hi]
    · rw [List.getElem?_eq_none (by omega), List.getElem?_eq_none (by simp [memBytes]; omega)]
  rw [hexec, hdraws hinside, hread]

/-- Settles O31: the bytes a beat reads, and the two ways its descriptor goes on. -/
theorem dmaBeatResult : Obligations.DmaBeatResult := by
  unfold Obligations.DmaBeatResult
  intro c s d
  constructor
  · intro henabled hgranular haligned hquiet
    obtain ⟨bytes, draws, hlength, hbytes, -, hexec⟩ :=
      exec_dmaBeat_quiet ((beatEnabled_iff c s).2 henabled) (beatRefusal_eq_none hgranular haligned) hquiet
    refine ⟨bytes, draws, hlength, hbytes, ?_⟩
    have hchan : ({ s with draws := draws } : State).chan c = d := by cases c <;> rfl
    have hstream : ({ s with draws := draws } : State).stream c = s.stream c := by cases c <;> rfl
    rw [hexec, finishBeat_eq, hchan, hstream]
    split
    next hlast => rw [advanceDescriptor_of_last hlast]
    next hmore => rw [advanceDescriptor_of_more hmore]
  · exact fun hdisabled => exec_dmaBeat_of_not_enabled (mt (beatEnabled_iff c s).1 hdisabled)

end Sys2Proof.Machine
end

section
/-! The beats of a line with nothing interposed (spec/42_dma_pipeline.md R169 to R171): the state after each of them, and the
last one, which completes the line. -/

namespace Sys2Proof.Machine

theorem afterBeats_rem_toNat {d : Descriptor} {k : Nat} (hk : k < d.count.toNat) :
    (d.afterBeats k).rem.toNat = d.count.toNat - k := by
  simp only [Descriptor.afterBeats]
  bv_omega

/-- Channel `c` is armed for a whole line of STRIDE bytes, all of it inside the frame buffer, with nothing interposed. -/
structure LineArmed (s : State) (c : Channel) : Prop where
  armed : (s.chan c).erq = true
  beat : 0 < (s.chan c).beat.toNat
  rem : (s.chan c).rem = (s.chan c).count
  stride : (s.chan c).beat.toNat * (s.chan c).count.toNat = s.mode.stride.toNat
  aligned : (s.chan c).saddr.toNat % (s.chan c).beat.toNat = 0
  granular : s.granular = true
  inside : ∀ i, i < s.mode.stride.toNat → s.inFrameBuffer ((s.chan c).saddr.toNat + i) = true
  quiet : s.quiet

/-- `k` beats of the line that `c` is at the start of are delivered, and its descriptor is `d`. -/
def State.delivered (s : State) (c : Channel) (k : Nat) (d : Descriptor) : State :=
  (s.setStream c
    (s.stream c ++ memBytes Config.chip s (s.chan c).saddr.toNat ((s.chan c).beat.toNat * k))).setChan c d

section
variable (s : State) (c : Channel) (k : Nat) (d : Descriptor)

@[simp] theorem State.delivered_chan : (s.delivered c k d).chan c = d := State.chan_setChan _ _ _

@[simp] theorem State.delivered_stream : (s.delivered c k d).stream c =
    s.stream c ++ memBytes Config.chip s (s.chan c).saddr.toNat ((s.chan c).beat.toNat * k) := by
  rw [State.delivered, State.stream_setChan, State.stream_setStream]

@[simp] theorem State.delivered_granular : (s.delivered c k d).granular = s.granular := by
  simp [State.delivered, State.granular]

@[simp] theorem State.delivered_inFrameBuffer (a : Nat) :
    (s.delivered c k d).inFrameBuffer a = s.inFrameBuffer a := by
  simp [State.delivered, State.inFrameBuffer, State.fbValid]

@[simp] theorem State.delivered_memBytes (C : Config) (a n : Nat) :
    memBytes C (s.delivered c k d) a n = memBytes C s a n := by
  simp [State.delivered, memBytes, memByte]

theorem State.delivered_quiet (hquiet : s.quiet) : (s.delivered c k d).quiet := by
  simpa [State.delivered, State.quiet] using hquiet

/-- No beat is delivered, and the descriptor is as it was. -/
theorem State.delivered_zero : s.delivered c 0 (s.chan c) = s := by
  cases c <;> simp [State.delivered, memBytes]

/-- What the next beat delivers follows what the beats before it delivered. -/
theorem State.finishBeat_delivered :
    finishBeat c
        (memBytes Config.chip s ((s.chan c).saddr.toNat + (s.chan c).beat.toNat * k) (s.chan c).beat.toNat)
        (s.delivered c k d)
      = s.delivered c (k + 1) (advanceDescriptor d) := by
  rw [finishBeat_eq, State.delivered_chan, State.delivered_stream, List.append_assoc, memBytes_append,
    ← Nat.mul_succ]
  cases c <;> rfl

end

section
variable {s : State} {c : Channel} (h : LineArmed s c)
include h

theorem LineArmed.afterBeats_zero : (s.chan c).afterBeats 0 = s.chan c := by
  apply Descriptor.ext <;> simp [Descriptor.afterBeats, h.rem]

/-- A beat of the line ends inside the line. -/
theorem LineArmed.beat_le_stride {k : Nat} (hk : k < (s.chan c).count.toNat) :
    (s.chan c).beat.toNat * k + (s.chan c).beat.toNat ≤ s.mode.stride.toNat := by
  rw [← h.stride, ← Nat.mul_succ]
  exact Nat.mul_le_mul_left _ hk

/-- The addresses of a line do not wrap, so a beat starts where the beats before it ended. -/
theorem LineArmed.saddr_afterBeats {k : Nat} (hk : k < (s.chan c).count.toNat) :
    ((s.chan c).afterBeats k).saddr.toNat = (s.chan c).saddr.toNat + (s.chan c).beat.toNat * k := by
  have hle := h.beat_le_stride hk
  have hpos := h.beat
  have hinside := h.inside ((s.chan c).beat.toNat * k) (by omega)
  simp only [State.inFrameBuffer, Bool.and_eq_true, decide_eq_true_eq] at hinside
  obtain ⟨-, -, -, hlt⟩ := hinside
  simp only [Descriptor.afterBeats, BitVec.toNat_add, BitVec.toNat_ofNat]
  omega

/-- R169, R171: a beat of the line is taken, and delivers the next bytes of the line. -/
theorem LineArmed.exec_dmaBeat {k : Nat} (hk : k < (s.chan c).count.toNat) :
    exec (.dmaBeat c) (s.delivered c k ((s.chan c).afterBeats k)) =
      .next (s.delivered c (k + 1) (advanceDescriptor ((s.chan c).afterBeats k))) := by
  have hsaddr := h.saddr_afterBeats hk
  have hrem := afterBeats_rem_toNat hk
  have hbeat : ((s.chan c).afterBeats k).beat = (s.chan c).beat := rfl
  have henabled : beatEnabled c (s.delivered c k ((s.chan c).afterBeats k)) = true := by
    rw [beatEnabled_iff, State.delivered_chan, hrem]
    exact ⟨h.armed, by omega⟩
  have hrefusal : beatRefusal c (s.delivered c k ((s.chan c).afterBeats k)) = none := by
    refine beatRefusal_eq_none ((State.delivered_granular s c k _).trans h.granular) (.inr ?_)
    rw [State.delivered_chan, hsaddr, hbeat, Nat.add_mul_mod_self_left]
    exact h.aligned
  rw [exec_dmaBeat_of_inside henabled hrefusal (State.delivered_quiet s c k _ h.quiet), State.delivered_chan,
    State.delivered_memBytes, hsaddr, hbeat, State.finishBeat_delivered]
  intro i hi
  have hle := h.beat_le_stride hk
  rw [State.delivered_chan, hbeat] at hi
  rw [State.delivered_inFrameBuffer, State.delivered_chan, hsaddr, Nat.add_assoc]
  exact h.inside _ (by omega)

/-- The beats of the line that are left, and the last. -/
theorem LineArmed.times_dmaBeat (n : Nat) : ∀ k, k + n + 1 = (s.chan c).count.toNat →
    times (exec (.dmaBeat c)) (n + 1) (s.delivered c k ((s.chan c).afterBeats k)) =
      .next (s.delivered c (s.chan c).count.toNat (advanceDescriptor ((s.chan c).afterBeats (k + n)))) := by
  induction n with
  | zero =>
    intro k hk
    rw [times, h.exec_dmaBeat (by omega), ← hk]
    rfl
  | succ n ih =>
    intro k hk
    have hmore : ((s.chan c).afterBeats k).rem ≠ 1 := fun hone => by
      have hrem := afterBeats_rem_toNat (d := s.chan c) (k := k) (by omega)
      rw [hone, show (1 : Word).toNat = 1 from rfl] at hrem
      omega
    rw [times, h.exec_dmaBeat (by omega), advanceDescriptor_of_more hmore, afterBeats_step, thenRun,
      ih (k + 1) (by omega), Nat.succ_add_eq_add_succ]

end

/-- R170: SLAST rewinds the line's bytes modulo 2^32. -/
theorem afterBeats_rewound {d : Descriptor} {stride : Word} {k : Nat} (hk : k + 1 = d.count.toNat)
    (hstride : d.beat.toNat * d.count.toNat = stride.toNat) (hslast : d.slast = 0 - stride) :
    (d.afterBeats k).saddr + (d.afterBeats k).beat + d.slast = d.saddr := by
  have hstep : (d.afterBeats k).saddr + (d.afterBeats k).beat = (d.afterBeats (k + 1)).saddr :=
    congrArg Descriptor.saddr (afterBeats_step d k)
  rw [hstep, hk, hslast]
  simp only [Descriptor.afterBeats, hstride, BitVec.ofNat_toNat, BitVec.setWidth_eq]
  bv_omega

/-- R169: the last beat of a line that is disarmed on completion. -/
theorem lineComplete_advanceDescriptor {d : Descriptor} {stride : Word} {k : Nat} (hk : k + 1 = d.count.toNat)
    (hstride : d.beat.toNat * d.count.toNat = stride.toNat) (hslast : d.slast = 0 - stride) (hdreq : d.dreq = true) :
    LineComplete d (advanceDescriptor (d.afterBeats k)) ∧ (advanceDescriptor (d.afterBeats k)).rem = d.count := by
  have hlast : (d.afterBeats k).rem = 1 := by
    refine BitVec.eq_of_toNat_eq ((afterBeats_rem_toNat (by omega)).trans ?_)
    rw [← hk, Nat.add_sub_cancel_left]
    rfl
  have hdisarms : (d.afterBeats k).dreq = true := hdreq
  rw [advanceDescriptor_of_last hlast, if_pos hdisarms]
  refine ⟨⟨afterBeats_rewound hk hstride hslast, ?_, getFlag_setFlag_same _ 0 false (by decide)⟩, rfl⟩
  exact (getFlag_setFlag_ne _ 0 2 false (by decide) (by decide)).trans (getFlag_setFlag_same _ 2 true (by decide))

/-- Settles O32: each beat delivers the bytes that follow those of the beats before it, and the last one completes the
line. -/
theorem lineOfBeats : Obligations.LineOfBeats := by
  unfold Obligations.LineOfBeats
  intro c s d harmed hdreq hcount hrem hbeat hstride hslast haligned hgranular hinside hquiet
  have hline : LineArmed s c := ⟨harmed, hbeat, hrem, hstride, haligned, hgranular, hinside, hquiet⟩
  obtain ⟨n, hn⟩ : ∃ n, n + 1 = d.count.toNat := ⟨d.count.toNat - 1, by omega⟩
  have htimes := hline.times_dmaBeat n 0 (by rw [Nat.zero_add]; exact hn)
  rw [hline.afterBeats_zero, State.delivered_zero, hn, Nat.zero_add] at htimes
  obtain ⟨hcomplete, hreload⟩ := lineComplete_advanceDescriptor hn hstride hslast hdreq
  refine ⟨_, htimes, ?_, ?_⟩
  · rw [State.delivered_stream, hstride]
    rfl
  · rw [State.delivered_chan]
    exact ⟨hcomplete.saddr, hreload, hcomplete.done, hcomplete.disarmed⟩

end Sys2Proof.Machine
end

section
/-! The line timer (spec/43_scanline_driver.md R191, R194): a clock counts a phase or ends it, and the clocks of the two
phases give the HSYNC waveform. -/

namespace Sys2Proof.Machine

/-! ## One clock (R191) -/

/-- The clocks of the phase the timer is in: CMP1 for the low phase, CMP2 for the other. -/
def LineTimer.phaseLength (t : LineTimer) : Nat := if getFlag t.ctrl 2 then t.cmp2.toNat else t.cmp1.toNat

/-- The timer at the end of a phase: OUT and PHASE toggled, the flag of the phase raised, the counter cleared. -/
def LineTimer.phaseEnded (t : LineTimer) : LineTimer :=
  let phase := getFlag t.ctrl 2
  { t with cnt := 0, ctrl := setFlag (setFlag (setFlag t.ctrl 3 !phase) (if phase then 5 else 4) true) 2 !phase }

section
variable {t : LineTimer}

theorem LineTimer.phaseLength_of_low (hphase : getFlag t.ctrl 2 = false) : t.phaseLength = t.cmp1.toNat := by
  simp [LineTimer.phaseLength, hphase]

theorem LineTimer.phaseLength_of_high (hphase : getFlag t.ctrl 2 = true) : t.phaseLength = t.cmp2.toNat := by
  simp [LineTimer.phaseLength, hphase]

theorem LineTimer.phaseEnded_of_low (hphase : getFlag t.ctrl 2 = false) :
    t.phaseEnded = { t with cnt := 0, ctrl := setFlag (setFlag (setFlag t.ctrl 3 true) 4 true) 2 true } := by
  simp [LineTimer.phaseEnded, hphase]

theorem LineTimer.phaseEnded_of_high (hphase : getFlag t.ctrl 2 = true) :
    t.phaseEnded = { t with cnt := 0, ctrl := setFlag (setFlag (setFlag t.ctrl 3 false) 5 true) 2 false } := by
  simp [LineTimer.phaseEnded, hphase]

theorem LineTimer.clocked_of_phaseEnd (hend : t.cnt.toNat + 1 = t.phaseLength) : t.clocked = t.phaseEnded := by
  cases hphase : getFlag t.ctrl 2 with
  | false =>
    rw [LineTimer.phaseLength_of_low hphase] at hend
    rw [LineTimer.phaseEnded_of_low hphase]
    simp [LineTimer.clocked, hphase, hend]
  | true =>
    rw [LineTimer.phaseLength_of_high hphase] at hend
    rw [LineTimer.phaseEnded_of_high hphase]
    simp [LineTimer.clocked, hphase, hend]

theorem LineTimer.clocked_of_counting (hmore : t.cnt.toNat + 1 ≠ t.phaseLength) :
    t.clocked = { t with cnt := BitVec.ofNat 32 (t.cnt.toNat + 1) } := by
  cases hphase : getFlag t.ctrl 2 with
  | false =>
    rw [LineTimer.phaseLength_of_low hphase] at hmore
    simp [LineTimer.clocked, hphase, hmore]
  | true =>
    rw [LineTimer.phaseLength_of_high hphase] at hmore
    simp [LineTimer.clocked, hphase, hmore]

theorem LineTimer.phaseEnded_cnt (t : LineTimer) : t.phaseEnded.cnt = 0 := rfl

theorem LineTimer.phaseEnded_phase (t : LineTimer) : getFlag t.phaseEnded.ctrl 2 = !getFlag t.ctrl 2 :=
  getFlag_setFlag_same _ 2 _ (by decide)

theorem LineTimer.phaseEnded_out (t : LineTimer) : getFlag t.phaseEnded.ctrl 3 = !getFlag t.ctrl 2 := by
  refine (getFlag_setFlag_ne _ 2 3 _ (by decide) (by decide)).trans ?_
  refine (getFlag_setFlag_ne _ _ 3 _ ?_ ?_).trans (getFlag_setFlag_same _ 3 _ (by decide)) <;> split <;> decide

theorem LineTimer.phaseEnded_compareFlag (t : LineTimer) :
    getFlag t.phaseEnded.ctrl (if getFlag t.ctrl 2 then 5 else 4) = true := by
  refine (getFlag_setFlag_ne _ 2 _ _ (by decide) ?_).trans (getFlag_setFlag_same _ _ true ?_) <;> split <;> decide

theorem LineTimer.phaseEnded_run (t : LineTimer) : getFlag t.phaseEnded.ctrl 0 = getFlag t.ctrl 0 := by
  refine (getFlag_setFlag_ne _ 2 0 _ (by decide) (by decide)).trans ?_
  refine (getFlag_setFlag_ne _ _ 0 _ ?_ ?_).trans (getFlag_setFlag_ne _ 3 0 _ (by decide) (by decide)) <;>
    split <;> decide

/-- A clock does not stop the timer. -/
theorem LineTimer.clocked_run (t : LineTimer) : getFlag t.clocked.ctrl 0 = getFlag t.ctrl 0 := by
  by_cases hend : t.cnt.toNat + 1 = t.phaseLength
  · rw [LineTimer.clocked_of_phaseEnd hend, LineTimer.phaseEnded_run]
  · rw [LineTimer.clocked_of_counting hend]

end

/-! ## TMR_STEP (R191, R34) -/

theorem timerClock_of_stopped {s : State} (hstopped : s.tmrRun = false) : timerClock s = s :=
  if_neg (Bool.eq_false_iff.1 hstopped)

theorem timerClock_of_running {s : State} (hrun : s.tmrRun = true) :
    timerClock s = ({ s with tmr := s.tmr.clocked }).record :=
  if_pos hrun

/-- The sample taken where OUT and FLAGS.VSYNC have these levels. -/
theorem record_of_levels {s : State} {hsync vsync : Bool} (hout : s.tmrOut = hsync) (hflag : s.vsync = vsync) :
    s.record = { s with shown := { hsync := hsync, vsync := vsync, color := s.frm.color.setWidth 8 } :: s.shown } := by
  rw [State.record, State.sample, hout, hflag, BitVec.setWidth_eq_extractLsb' (by decide)]

/-- R34: the sample of a clock is taken after it. -/
theorem timerClock_of_clocked {s : State} {u : LineTimer} {out : Bool} (hrun : s.tmrRun = true)
    (hclocked : s.tmr.clocked = u) (hout : getFlag u.ctrl 3 = out) :
    timerClock s =
      { s with
        tmr := u
        shown := { hsync := out, vsync := s.vsync, color := s.frm.color.setWidth 8 } :: s.shown } := by
  rw [timerClock_of_running hrun, hclocked]
  exact record_of_levels (s := { s with tmr := u }) hout rfl

/-- Settles O36: a running timer ends the low phase, ends the other phase, or counts. -/
theorem tmrStepResult : Obligations.TmrStepResult := by
  unfold Obligations.TmrStepResult
  intro s n showing
  have hexec : exec .tmrStep s = .next (timerClock s) := rfl
  rw [hexec]
  by_cases hstopped : s.tmrRun = false
  · rw [if_pos hstopped, timerClock_of_stopped hstopped]
  have hrun : s.tmrRun = true := Bool.eq_true_of_not_eq_false hstopped
  rw [if_neg hstopped]
  by_cases hlow : s.tmrPhase = false ∧ n = s.tmr.cmp1.toNat
  · obtain ⟨hphase, hend⟩ := hlow
    have hclocked := LineTimer.clocked_of_phaseEnd (hend.trans (LineTimer.phaseLength_of_low hphase).symm)
    have hout : getFlag s.tmr.phaseEnded.ctrl 3 = true :=
      (LineTimer.phaseEnded_out s.tmr).trans (congrArg not hphase)
    rw [if_pos ⟨hphase, hend⟩, timerClock_of_clocked hrun hclocked hout, LineTimer.phaseEnded_of_low hphase]
  rw [if_neg hlow]
  by_cases hhigh : s.tmrPhase = true ∧ n = s.tmr.cmp2.toNat
  · obtain ⟨hphase, hend⟩ := hhigh
    have hclocked := LineTimer.clocked_of_phaseEnd (hend.trans (LineTimer.phaseLength_of_high hphase).symm)
    have hout : getFlag s.tmr.phaseEnded.ctrl 3 = false :=
      (LineTimer.phaseEnded_out s.tmr).trans (congrArg not hphase)
    rw [if_pos ⟨hphase, hend⟩, timerClock_of_clocked hrun hclocked hout, LineTimer.phaseEnded_of_high hphase]
  rw [if_neg hhigh]
  have hmore : n ≠ s.tmr.phaseLength := fun hend => by
    cases hphase : s.tmrPhase with
    | false => exact hlow ⟨hphase, hend.trans (LineTimer.phaseLength_of_low hphase)⟩
    | true => exact hhigh ⟨hphase, hend.trans (LineTimer.phaseLength_of_high hphase)⟩
  exact congrArg _ (timerClock_of_clocked hrun (LineTimer.clocked_of_counting hmore) rfl)

/-! ## The clocks of a phase (R194) -/

/-- The counter of a phase does not wrap. -/
theorem LineTimer.toNat_of_lt_phaseLength (t : LineTimer) {i : Nat} (hi : i < t.phaseLength) :
    (BitVec.ofNat 32 i).toNat = i := by
  have hlength : t.phaseLength < 2 ^ 32 := by
    simp only [LineTimer.phaseLength]
    split <;> exact BitVec.isLt _
  rw [BitVec.toNat_ofNat, Nat.mod_eq_of_lt (by omega)]

/-- Within a phase only the counter moves. -/
theorem LineTimer.iterate_clocked_of_lt {t : LineTimer} (hcnt : t.cnt = 0) :
    ∀ i, i < t.phaseLength → LineTimer.clocked^[i] t = { t with cnt := BitVec.ofNat 32 i } := by
  intro i
  induction i with
  | zero => exact fun _ => LineTimer.ext hcnt rfl rfl rfl
  | succ i ih =>
    intro hi
    have hcount := t.toNat_of_lt_phaseLength (i := i) (by omega)
    have hmore : (BitVec.ofNat 32 i).toNat + 1 ≠ t.phaseLength := by omega
    rw [Function.iterate_succ_apply', ih (by omega)]
    refine (LineTimer.clocked_of_counting hmore).trans ?_
    rw [hcount]

/-- The clocks of a phase end it. -/
theorem LineTimer.iterate_clocked_phaseLength {t : LineTimer} (hcnt : t.cnt = 0) (hpos : 1 ≤ t.phaseLength) :
    LineTimer.clocked^[t.phaseLength] t = t.phaseEnded := by
  obtain ⟨n, hn⟩ : ∃ n, n + 1 = t.phaseLength := ⟨t.phaseLength - 1, by omega⟩
  have hcount := t.toNat_of_lt_phaseLength (i := n) (by omega)
  have hend : (BitVec.ofNat 32 n).toNat + 1 = t.phaseLength := by omega
  rw [← hn, Function.iterate_succ_apply', LineTimer.iterate_clocked_of_lt hcnt n (by omega)]
  exact LineTimer.clocked_of_phaseEnd hend

/-- The clocks of a running timer. -/
theorem iterate_timerClock_tmr (n : Nat) {s : State} (hrun : s.tmrRun = true) :
    (timerClock^[n] s).tmr = LineTimer.clocked^[n] s.tmr := by
  induction n generalizing s with
  | zero => rfl
  | succ n ih =>
    have htmr : (timerClock s).tmr = s.tmr.clocked := by rw [timerClock_of_running hrun]; rfl
    have hrun' : (timerClock s).tmrRun = true := by
      rw [State.tmrRun, htmr, LineTimer.clocked_run]
      exact hrun
    rw [Function.iterate_succ_apply, Function.iterate_succ_apply, ih hrun', htmr]

/-- TMR_STEP `n` times is `n` clocks. -/
theorem times_tmrStep (n : Nat) {s : State} (hrun : s.tmrRun = true) :
    ∃ t, times (exec .tmrStep) n s = .next t ∧ t.tmr = LineTimer.clocked^[n] s.tmr :=
  ⟨timerClock^[n] s, times_next timerClock n s, iterate_timerClock_tmr n hrun⟩

/-- Settles O37: the clocks of the low phase leave OUT low and end it with TCF1; those of the other phase leave OUT high
and TCF1 raised, and end it with TCF2. -/
theorem hsyncWaveform : Obligations.HsyncWaveform := by
  unfold Obligations.HsyncWaveform
  intro s hrun hphase hcnt hout hpos1 hpos2
  have hlength1 : s.tmr.phaseLength = s.tmr.cmp1.toNat := LineTimer.phaseLength_of_low hphase
  have hhigh : getFlag s.tmr.phaseEnded.ctrl 2 = true := s.tmr.phaseEnded_phase.trans (congrArg not hphase)
  have hlength2 : s.tmr.phaseEnded.phaseLength = s.tmr.cmp2.toNat := LineTimer.phaseLength_of_high hhigh
  have hclocks (i : Nat) :
      LineTimer.clocked^[s.tmr.cmp1.toNat + i] s.tmr = LineTimer.clocked^[i] s.tmr.phaseEnded := by
    rw [Nat.add_comm, Function.iterate_add_apply, ← hlength1,
      LineTimer.iterate_clocked_phaseLength hcnt (by omega)]
  refine ⟨fun i hi => ?low, fun i hi => ?high, ?back⟩
  case low =>
    obtain ⟨t, htimes, htmr⟩ := times_tmrStep i hrun
    rw [LineTimer.iterate_clocked_of_lt hcnt i (by omega)] at htmr
    refine ⟨t, htimes, ?_⟩
    rw [hsyncPin, State.tmrOut, htmr]
    exact hout
  case high =>
    obtain ⟨t, htimes, htmr⟩ := times_tmrStep (s.tmr.cmp1.toNat + i) hrun
    rw [hclocks, LineTimer.iterate_clocked_of_lt s.tmr.phaseEnded_cnt i (by omega)] at htmr
    have htcf1 := s.tmr.phaseEnded_compareFlag
    rw [show getFlag s.tmr.ctrl 2 = false from hphase] at htcf1
    refine ⟨t, htimes, ?_, ?_⟩
    · rw [hsyncPin, State.tmrOut, htmr]
      exact s.tmr.phaseEnded_out.trans (congrArg not hphase)
    · rw [State.tcf1, htmr]
      exact htcf1
  case back =>
    obtain ⟨t, htimes, htmr⟩ := times_tmrStep (s.tmr.cmp1.toNat + s.tmr.cmp2.toNat) hrun
    rw [hclocks, ← hlength2, LineTimer.iterate_clocked_phaseLength s.tmr.phaseEnded_cnt (by omega)] at htmr
    have htcf2 := s.tmr.phaseEnded.phaseEnded_compareFlag
    rw [hhigh] at htcf2
    refine ⟨t, htimes, ?_, ?_, ?_, ?_⟩
    · rw [hsyncPin, State.tmrOut, htmr]
      exact s.tmr.phaseEnded.phaseEnded_out.trans (congrArg not hhigh)
    · rw [State.tmrPhase, htmr]
      exact s.tmr.phaseEnded.phaseEnded_phase.trans (congrArg not hhigh)
    · rw [htmr]
      exact s.tmr.phaseEnded.phaseEnded_cnt
    · rw [State.tcf2, htmr]
      exact htcf2

end Sys2Proof.Machine
end

section
/-! The mask and the rows that lines show (spec/43_scanline_driver.md R199, R201, R202). -/

namespace Sys2Proof.Machine

/-! ## IRQ_MASK and IRQ_UNMASK (R201, R202) -/

theorem execIrqMask_eq (s : State) : execIrqMask s = .next (takeLineInterrupt s) := by
  rw [execIrqMask]
  split
  next hmasked =>
    have hsame : setFlag s.flags irqMaskBit true = s.flags := setFlag_of_getFlag (by decide) hmasked
    rw [takeLineInterrupt, State.setFlags, hsame]
  next => rfl

theorem execIrqUnmask_eq (s : State) : execIrqUnmask s = .next (returnFromInterrupt s) := by
  rw [execIrqUnmask]
  split
  next => rfl
  next hopen =>
    have hsame : setFlag s.flags irqMaskBit false = s.flags :=
      setFlag_of_getFlag (by decide) (Bool.eq_false_iff.2 hopen)
    rw [returnFromInterrupt, State.setFlags, hsame]

/-- Settles O43: setting a set mask, and clearing a clear one, changes nothing. -/
theorem maskAndUnmask : Obligations.MaskAndUnmask := by
  unfold Obligations.MaskAndUnmask
  exact fun s => ⟨execIrqMask_eq s, execIrqUnmask_eq s⟩

/-! ## The row a line shows (R199) -/

/-- The lines that show one row: two with line doubling. -/
def VideoMode.linesPerRow (m : VideoMode) : Nat := if m.ld then 2 else 1

theorem VideoMode.linesPerRow_pos (m : VideoMode) : 0 < m.linesPerRow := by
  simp only [VideoMode.linesPerRow]
  split <;> decide

/-- R199's shift by LD is the division by the lines of a row. -/
theorem VideoMode.shiftRight_ld (m : VideoMode) (n : Nat) : n >>> (if m.ld then 1 else 0) = n / m.linesPerRow := by
  simp only [VideoMode.linesPerRow]
  split <;> simp [Nat.shiftRight_eq_div_pow]

theorem State.visibleRow_of_above {s : State} (habove : s.line.toNat < s.mode.topBlank.toNat) :
    s.visibleRow = none :=
  if_neg (by omega)

theorem State.visibleRow_of_le {s : State} (hle : s.mode.topBlank.toNat ≤ s.line.toNat) :
    s.visibleRow =
      if (s.line.toNat - s.mode.topBlank.toNat) / s.mode.linesPerRow < s.mode.height.toNat then
        some ((s.line.toNat - s.mode.topBlank.toNat) / s.mode.linesPerRow)
      else none := by
  have hnonneg : (0 : Int) ≤ (s.line.toNat : Int) - (s.mode.topBlank.toNat : Int) := by omega
  refine (if_pos hnonneg).trans ?_
  rw [Int.toNat_sub, VideoMode.shiftRight_ld]

theorem State.visibleRow_eq_some_iff {s : State} {row : Nat} :
    s.visibleRow = some row ↔
      s.mode.topBlank.toNat ≤ s.line.toNat
        ∧ (s.line.toNat - s.mode.topBlank.toNat) / s.mode.linesPerRow = row ∧ row < s.mode.height.toNat := by
  by_cases hle : s.mode.topBlank.toNat ≤ s.line.toNat
  · rw [State.visibleRow_of_le hle]
    split
    next hlt => simpa only [Option.some.injEq, hle, true_and] using ⟨fun h => ⟨h, h ▸ hlt⟩, And.left⟩
    next hge => exact ⟨nofun, fun ⟨_, hdiv, hlt⟩ => absurd (hdiv ▸ hlt) hge⟩
  · simp [State.visibleRow_of_above (Nat.lt_of_not_le hle), hle]

theorem State.visibleRow_isSome_iff {s : State} :
    s.visibleRow.isSome = true ↔
      s.mode.topBlank.toNat ≤ s.line.toNat
        ∧ s.line.toNat < s.mode.topBlank.toNat + s.mode.height.toNat * s.mode.linesPerRow := by
  by_cases hle : s.mode.topBlank.toNat ≤ s.line.toNat
  · have hrows := Nat.div_lt_iff_lt_mul (x := s.line.toNat - s.mode.topBlank.toNat) (y := s.mode.height.toNat)
      s.mode.linesPerRow_pos
    rw [State.visibleRow_of_le hle, Option.isSome_ite]
    omega
  · simp [State.visibleRow_of_above (Nat.lt_of_not_le hle), hle]

/-- With line doubling the lines of a row are two. -/
theorem State.visibleRow_of_ld {s : State} {row second : Nat} (hld : s.mode.ld = true)
    (hrow : row < s.mode.height.toNat) (hsecond : second < 2)
    (hline : s.line.toNat = s.mode.topBlank.toNat + 2 * row + second) : s.visibleRow = some row := by
  have htwo : s.mode.linesPerRow = 2 := if_pos hld
  rw [State.visibleRow_eq_some_iff, htwo]
  omega

/-- Settles O42: a row is shown on as many consecutive lines as line doubling says, the first row from TOP_BLANK on. -/
theorem visibleRowMapping : Obligations.VisibleRowMapping := by
  unfold Obligations.VisibleRowMapping
  exact fun s => ⟨fun row => State.visibleRow_eq_some_iff, State.visibleRow_isSome_iff,
    fun j line line' hld hj hline hline' =>
      ⟨State.visibleRow_of_ld (second := 0) hld hj (by decide) hline,
        State.visibleRow_of_ld (second := 1) hld hj (by decide) hline'⟩⟩

end Sys2Proof.Machine
end

section
/-! LINE_TICK (spec/43_scanline_driver.md R195 to R200): what a tick does with nothing interposed, on a blanking and on a
visible line, and how LINE and its flags go on for every schedule. -/

namespace Sys2Proof.Machine

/-! ## Where LINE_TICK is taken (R195) -/

theorem State.tickEnabled_iff (s : State) :
    s.tickEnabled = true ↔ s.running = true ∧ s.irq = true ∧ s.irqMasked = false := by
  simp only [State.tickEnabled, Bool.and_eq_true, Bool.not_eq_true', and_assoc]

theorem exec_lineTick_of_enabled {s : State} (henabled : s.tickEnabled = true) (htotal : s.mode.totalLines ≠ 0) :
    exec .lineTick s = settle (inOrder Config.chip (tickSteps Config.chip) s) :=
  (if_pos henabled).trans (if_neg htotal)

theorem exec_lineTick_of_not_enabled {s : State} (hdisabled : ¬ s.tickEnabled = true) :
    exec .lineTick s = .next s :=
  if_neg hdisabled

/-- A tick that is taken and answers a state has lines to count. -/
theorem totalLines_ne_zero_of_lineTick {s t : State} (henabled : s.tickEnabled = true)
    (h : exec .lineTick s = .next t) : s.mode.totalLines ≠ 0 := by
  intro hzero
  have hrefused : exec .lineTick s = .refused .noTotalLines := (if_pos henabled).trans (if_pos hzero)
  rw [hrefused] at h
  cases h

/-! ## The steps of a tick with nothing interposed -/

/-- R197: the line a tick goes on to. -/
def State.nextLine (s : State) : Word := BitVec.ofNat 32 ((s.line.toNat + 1) % s.mode.totalLines.toNat)

/-- R195 step 3, with its sample (R34). -/
theorem markFrameStart_eq (s : State) :
    markFrameStart s =
      { s with
        flags := setFlag (setFlag s.flags 1 (s.line == 0)) 0 (s.line == 0)
        shown := { hsync := s.tmrOut, vsync := s.line == 0, color := s.frm.color.setWidth 8 } :: s.shown } := by
  have hvsync : ((s.setFlags vsyncBit (s.line == 0)).setFlags frameStartBit (s.line == 0)).vsync = (s.line == 0) :=
    (getFlag_setFlag_ne _ 0 1 _ (by decide) (by decide)).trans (getFlag_setFlag_same _ 1 _ (by decide))
  exact record_of_levels rfl hvsync

/-- R195 step 1 leaves the HSYNC pin alone. -/
theorem clearCompareFlags_tmrOut (s : State) : (clearCompareFlags s).tmrOut = s.tmrOut :=
  (getFlag_setFlag_ne _ 5 3 _ (by decide) (by decide)).trans (getFlag_setFlag_ne _ 4 3 _ (by decide) (by decide))

/-- A tick after its steps 0 to 3 (R195). -/
def State.tickMarked (s : State) : State := markFrameStart (advanceLine (clearCompareFlags (takeLineInterrupt s)))

section
variable (s : State)

@[simp] theorem State.tickMarked_mode : s.tickMarked.mode = s.mode := rfl
@[simp] theorem State.tickMarked_mem : s.tickMarked.mem = s.mem := rfl
@[simp] theorem State.tickMarked_cache : s.tickMarked.cache = s.cache := rfl
@[simp] theorem State.tickMarked_epoch : s.tickMarked.epoch = s.epoch := rfl
@[simp] theorem State.tickMarked_gaps : s.tickMarked.gaps = s.gaps := rfl

end

theorem State.tickMarked_quiet {s : State} (hquiet : s.quiet) : s.tickMarked.quiet :=
  s.tickMarked_gaps.trans hquiet

theorem State.tickMarked_eq (s : State) :
    s.tickMarked =
      { s with
        line := s.nextLine
        tmr := { s.tmr with ctrl := setFlag (setFlag s.tmr.ctrl 4 false) 5 false }
        flags := setFlag (setFlag (setFlag s.flags 2 true) 1 (s.nextLine == 0)) 0 (s.nextLine == 0)
        shown :=
          { hsync := s.tmrOut, vsync := s.nextLine == 0, color := s.frm.color.setWidth 8 } :: s.shown } := by
  have hout : (advanceLine (clearCompareFlags (takeLineInterrupt s))).tmrOut = s.tmrOut := clearCompareFlags_tmrOut _
  rw [State.tickMarked, markFrameStart_eq, hout]
  rfl

theorem inOrder_tickSteps_of_quiet {C : Config} {s t : State} (hquiet : s.quiet)
    (hshow : showLine C s.tickMarked = .next t) (hquiet' : t.quiet) :
    inOrder C (tickSteps C) s = .next (returnFromInterrupt t) := by
  rw [tickSteps, inOrder_assign_of_quiet (by exact hquiet), inOrder_assign_of_quiet (by exact hquiet),
    inOrder_assign_of_quiet (by exact hquiet), inOrder_assign_of_quiet (by exact hquiet), inOrder_cons]
  refine (congrArg (andThen · _) hshow).trans ?_
  rw [andThen_next, gap_of_quiet hquiet', andThen_next, inOrder_assign_of_quiet (by exact hquiet'), inOrder_nil]

/-- `MEM`'s bytes depend on the map and the epoch alone. -/
theorem memByte_congr {C : Config} {s t : State} (hmem : t.mem = s.mem) (hepoch : t.epoch = s.epoch) (a : Nat) :
    memByte C t a = memByte C s a := by
  rw [memByte, memByte, hmem, hepoch]

/-- The host's view depends on the two maps and the epoch alone. -/
theorem hostByte_congr {C : Config} {s t : State} (hmem : t.mem = s.mem) (hcache : t.cache = s.cache)
    (hepoch : t.epoch = s.epoch) (a : Nat) : hostByte C t a = hostByte C s a := by
  rw [hostByte, hostByte, hcache, memByte_congr hmem hepoch]

/-! ## A blanking line (R200) -/

theorem showLine_of_blanking {C : Config} {s : State} (hblank : s.visibleRow = none) : showLine C s = .next s := by
  rw [showLine, hblank]

/-- The mask that step 0 of R195 sets and step 6 clears ends as it was, around the writes of VSYNC and FRAME_START. -/
theorem setFlag_mask_closed_opened {r : Word} (v w : Bool) (hopen : getFlag r 2 = false) :
    setFlag (setFlag (setFlag (setFlag r 2 true) 1 v) 0 w) 2 false = setFlag (setFlag r 1 v) 0 w := by
  rw [setFlag_comm _ w false (by decide) (by decide) (by decide),
    setFlag_comm _ v false (by decide) (by decide) (by decide), setFlag_setFlag _ _ _ (by decide),
    setFlag_of_getFlag (by decide) hopen]

/-- R195, R200: a blanking tick with nothing interposed. -/
theorem exec_lineTick_of_blanking {s : State} (henabled : s.tickEnabled = true) (htotal : s.mode.totalLines ≠ 0)
    (hquiet : s.quiet) (hblank : s.tickMarked.visibleRow = none) :
    exec .lineTick s = .next (returnFromInterrupt s.tickMarked) := by
  rw [exec_lineTick_of_enabled henabled htotal,
    inOrder_tickSteps_of_quiet hquiet (showLine_of_blanking hblank) hquiet, settle_next]

/-- Settles O38: on a blanking line steps 0 to 3 and 6 alone write anything. -/
theorem blankingTickResult : Obligations.BlankingTickResult := by
  unfold Obligations.BlankingTickResult
  constructor
  · intro s hrunning hirq hopen hquiet htotal line hnorow
    have hblank : s.tickMarked.visibleRow = none := by
      refine Option.eq_none_iff_forall_ne_some.2 fun row hrow => ?_
      obtain ⟨hle, hdiv, hlt⟩ := State.visibleRow_eq_some_iff.1 hrow
      exact hnorow row hlt ⟨hle, hdiv⟩
    rw [exec_lineTick_of_blanking ((State.tickEnabled_iff s).2 ⟨hrunning, hirq, hopen⟩) htotal hquiet hblank,
      returnFromInterrupt, State.setFlags, State.tickMarked_eq, ← setFlag_mask_closed_opened _ _ hopen]
    rfl
  · intro s hfails
    refine exec_lineTick_of_not_enabled fun henabled => ?_
    obtain ⟨hrunning, hirq, hopen⟩ := (State.tickEnabled_iff s).1 henabled
    obtain ⟨hie, htcf1⟩ := Bool.and_eq_true_iff.1 hirq
    simp [hrunning, hie, htcf1, hopen] at hfails

/-! ## A visible line (R195 step 4) -/

/-- A line reprogrammed for the row at `p` and armed (R167, R165). -/
def State.lineStarted (s : State) (p : Word) : State :=
  { s with
    flags := setFlag s.flags 3 !s.shiftAligned
    dma0 := { s.dma0 with saddr := p, dcsr := setFlag (setFlag s.dma0.dcsr 2 false) 0 true }
    dma1 :=
      { s.dma1 with
        saddr := p + s.shift, beat := s.secondaryBeat, count := s.secondaryCount, rem := s.secondaryCount
        dcsr := setFlag (setFlag s.dma1.dcsr 2 false) 0 true }
    frm := { s.frm with px := 0, ctrl := setFlag (setFlag s.frm.ctrl 1 s.overrun) 0 true }
    stream0 := [], stream1 := [] }

/-- R84: the row's bytes are written back, which changes nothing but the two maps. -/
structure RowFlushed (C : Config) (p : Word) (s t : State) : Prop where
  frame : t = { s with mem := t.mem, cache := t.cache }
  mem : ∀ a, memByte C t a =
    if p.toNat ≤ a ∧ a < p.toNat + s.mode.stride.toNat then hostByte C s a else memByte C s a
  host : ∀ a, hostByte C t a = hostByte C s a

section
variable (s : State) (p : Word)

@[simp] theorem State.lineStarted_mode : (s.lineStarted p).mode = s.mode := rfl
@[simp] theorem State.lineStarted_tmr : (s.lineStarted p).tmr = s.tmr := rfl
@[simp] theorem State.lineStarted_mem : (s.lineStarted p).mem = s.mem := rfl
@[simp] theorem State.lineStarted_cache : (s.lineStarted p).cache = s.cache := rfl
@[simp] theorem State.lineStarted_epoch : (s.lineStarted p).epoch = s.epoch := rfl
@[simp] theorem State.lineStarted_gaps : (s.lineStarted p).gaps = s.gaps := rfl

end

theorem State.lineStarted_quiet {s : State} (p : Word) (hquiet : s.quiet) : (s.lineStarted p).quiet :=
  (s.lineStarted_gaps p).trans hquiet

theorem RowFlushed.quiet {C : Config} {p : Word} {s t : State} (h : RowFlushed C p s t) (hquiet : s.quiet) :
    t.quiet :=
  (congrArg State.gaps h.frame).trans hquiet

theorem RowFlushed.tmr {C : Config} {p : Word} {s t : State} (h : RowFlushed C p s t) : t.tmr = s.tmr := by
  rw [h.frame]

/-- R195 step 4, with nothing interposed. -/
theorem showLine_of_visible (C : Config) {s : State} {row : Nat} {p : Word} (hrow : s.visibleRow = some row)
    (hp : BitVec.ofNat 32 (s.rowBase row) = p) (hgranular : s.granular = true) (hquiet : s.quiet) :
    ∃ t, showLine C s = .next t ∧ RowFlushed C p (s.lineStarted p) t := by
  obtain ⟨t, hflush, hmem, hhost, hframe⟩ :=
    flushRange_quiet (C := C) s.mode.stride.toNat p.toNat (s.lineStarted p) (State.lineStarted_quiet p hquiet)
  have hflushed : RowFlushed C p (s.lineStarted p) t := ⟨hframe, hmem, hhost⟩
  have hquiet' : t.quiet := hflushed.quiet (State.lineStarted_quiet p hquiet)
  refine ⟨t, ?_, hflushed⟩
  rw [showLine, hrow]
  show inOrder C (showRow C (BitVec.ofNat 32 (s.rowBase row))) s = .next t
  rw [hp, showRow, inOrder_cons, reprogram_quiet C p hgranular hquiet, andThen_next, gap_of_quiet (by exact hquiet),
    andThen_next, inOrder_cons, arm_quiet C (by exact hquiet), andThen_next, gap_of_quiet (by exact hquiet),
    andThen_next, inOrder_cons]
  refine (congrArg (andThen · _) hflush).trans ?_
  rw [andThen_next, gap_of_quiet hquiet', andThen_next, inOrder_nil]

/-- R195: a visible tick with nothing interposed. -/
theorem exec_lineTick_of_visible {s : State} {row : Nat} {p : Word} (henabled : s.tickEnabled = true)
    (htotal : s.mode.totalLines ≠ 0) (hquiet : s.quiet) (hgranular : s.granular = true)
    (hrow : s.tickMarked.visibleRow = some row) (hp : BitVec.ofNat 32 (s.rowBase row) = p) :
    ∃ t, exec .lineTick s = .next (returnFromInterrupt t)
      ∧ RowFlushed Config.chip p (s.tickMarked.lineStarted p) t := by
  have hbase : s.tickMarked.rowBase row = s.rowBase row := rfl
  obtain ⟨t, hshow, hflushed⟩ := showLine_of_visible Config.chip hrow (hbase ▸ hp) hgranular
    (State.tickMarked_quiet hquiet)
  refine ⟨t, ?_, hflushed⟩
  have hquiet' : t.quiet := hflushed.quiet (State.lineStarted_quiet p (State.tickMarked_quiet hquiet))
  rw [exec_lineTick_of_enabled henabled htotal, inOrder_tickSteps_of_quiet hquiet hshow hquiet', settle_next]

/-- The row's bytes that a tick writes back are those the host saw before the tick. -/
theorem RowFlushed.bytes_of_tick {C : Config} {p : Word} {s t : State}
    (h : RowFlushed C p (s.tickMarked.lineStarted p) t) :
    (∀ a, memByte C (returnFromInterrupt t) a =
        if p.toNat ≤ a ∧ a < p.toNat + s.mode.stride.toNat then hostByte C s a else memByte C s a)
      ∧ ∀ a, hostByte C (returnFromInterrupt t) a = hostByte C s a := by
  have hmem (a : Nat) : memByte C (s.tickMarked.lineStarted p) a = memByte C s a :=
    memByte_congr (by simp) (by simp) a
  have hhost (a : Nat) : hostByte C (s.tickMarked.lineStarted p) a = hostByte C s a :=
    hostByte_congr (by simp) (by simp) (by simp) a
  refine ⟨fun a => ?_, fun a => (h.host a).trans (hhost a)⟩
  refine (h.mem a).trans ?_
  rw [hmem, hhost, State.lineStarted_mode, State.tickMarked_mode]

/-- Settles O39: the row is reprogrammed, armed and flushed between the steps that a blanking tick has too. -/
theorem visibleTickResult : Obligations.VisibleTickResult := by
  unfold Obligations.VisibleTickResult
  intro s row hrunning hirq hopen hquiet htotal hgranular line hle hdiv hlt p aligned beats1 overrun
  have hrow : s.tickMarked.visibleRow = some row := State.visibleRow_eq_some_iff.2 ⟨hle, hdiv, hlt⟩
  obtain ⟨t, hexec, hflushed⟩ := exec_lineTick_of_visible ((State.tickEnabled_iff s).2 ⟨hrunning, hirq, hopen⟩)
    htotal hquiet hgranular hrow (p := p) rfl
  refine ⟨returnFromInterrupt t, hexec, ?_, hflushed.bytes_of_tick⟩
  have hflags : setFlag (s.tickMarked.lineStarted p).flags 2 false =
      setFlag (setFlag (setFlag s.flags 1 (line == 0)) 0 (line == 0)) 3 (!aligned) := by
    rw [← setFlag_mask_closed_opened _ _ hopen, setFlag_comm _ false _ (by decide) (by decide) (by decide)]
    rw [State.tickMarked_eq]
    rfl
  rw [← hflags, returnFromInterrupt, State.setFlags, hflushed.frame, State.tickMarked_eq]
  rfl

/-! ## LINE and its flags for every schedule (R197, R198, R260) -/

/-- DMA_REPROGRAM and DMA_ENABLE write no flag but UNALIGNED. -/
theorem otherFlag_rel {C : Config} {i : Nat} (hi : i ≠ unalignedBit) :
    WriteRel C [.descriptors, .arm] (fun s t => getFlag t.flags i = getFlag s.flags i) := by
  refine ⟨agentRel_of_frame C (fun s => getFlag s.flags i) fun s t h => by rw [h.flags], fun {k s t} hk hw => ?_⟩
  cases hw with
  | unaligned _ v => exact getFlag_setFlag_ne _ _ _ v (by decide) hi
  | geometry _ c d hdcsr => rw [State.setChan_flags]
  | control _ c j v hj => rw [State.setChan_flags]
  | stream _ c => rw [State.setStream_flags]
  | px | corrupt | active => rfl
  | _ => simp at hk

/-- What R198 asks of LINE, FRAME_START and VSYNC. -/
def State.syncAtLine (s : State) (line : Word) : Prop :=
  s.line = line ∧ s.frameStart = (line == 0) ∧ s.vsync = (line == 0)

theorem State.syncAtLine.of_frame {s t : State} {line : Word} (h : s.syncAtLine line) (hframe : AgentFrame s t) :
    t.syncAtLine line := by
  obtain ⟨hline, hstart, hvsync⟩ := h
  refine ⟨hframe.line.trans hline, ?_, ?_⟩
  · rw [State.frameStart, hframe.flags]
    exact hstart
  · rw [State.vsync, hframe.flags]
    exact hvsync

theorem markFrameStart_syncAtLine (s : State) : (markFrameStart s).syncAtLine s.line := by
  rw [markFrameStart_eq]
  exact ⟨rfl, getFlag_setFlag_same _ 0 _ (by decide),
    (getFlag_setFlag_ne _ 0 1 _ (by decide) (by decide)).trans (getFlag_setFlag_same _ 1 _ (by decide))⟩

/-- Steps 4 and 5 of R195 leave LINE and its flags alone. -/
theorem State.syncAtLine.of_showLine {C : Config} {s t : State} {line : Word} (h : s.syncAtLine line)
    (hshow : showLine C s = .next t) : t.syncAtLine line := by
  obtain ⟨hline, hstart, hvsync⟩ := h
  have hkept (i : Nat) (hi : i ≠ unalignedBit) : getFlag t.flags i = getFlag s.flags i :=
    ((otherFlag_rel hi).showLine (by simp) (by simp) s).of_next hshow
  have hline' : t.line = s.line :=
    ((line_rel (ks := [.descriptors, .arm]) (by simp)).showLine (by simp) (by simp) s).of_next hshow
  exact ⟨hline'.trans hline, (hkept 0 (by decide)).trans hstart, (hkept 1 (by decide)).trans hvsync⟩

theorem State.syncAtLine.returnFromInterrupt {s : State} {line : Word} (h : s.syncAtLine line) :
    (returnFromInterrupt s).syncAtLine line := by
  obtain ⟨hline, hstart, hvsync⟩ := h
  exact ⟨hline, (getFlag_setFlag_ne _ 2 0 _ (by decide) (by decide)).trans hstart,
    (getFlag_setFlag_ne _ 2 1 _ (by decide) (by decide)).trans hvsync⟩

/-- A tick whose steps all run, whatever happens in its gaps. -/
theorem inOrder_tickSteps_eq_next {C : Config} {s t : State} (h : inOrder C (tickSteps C) s = .next t) :
    t.syncAtLine s.nextLine ∧ t.irqMasked = false := by
  obtain ⟨s1, hframe1, h⟩ := inOrder_assign_eq_next h
  obtain ⟨s2, hframe2, h⟩ := inOrder_assign_eq_next h
  obtain ⟨s3, hframe3, h⟩ := inOrder_assign_eq_next h
  obtain ⟨s4, hframe4, h⟩ := inOrder_assign_eq_next h
  obtain ⟨s5, hshow, h⟩ := andThen_eq_next h
  obtain ⟨s6, hgap, h⟩ := andThen_eq_next h
  obtain ⟨s7, hframe7, hdone⟩ := inOrder_assign_eq_next h
  cases hdone
  have hline : s3.line = s.nextLine := by
    have hline2 : s2.line = s.line := hframe2.line.trans hframe1.line
    have hmode2 : s2.mode = s.mode := hframe2.mode.trans hframe1.mode
    have hnext : s2.nextLine = s.nextLine := by rw [State.nextLine, State.nextLine, hline2, hmode2]
    exact hframe3.line.trans hnext
  have hmarked : s4.syncAtLine s.nextLine := hline ▸ (markFrameStart_syncAtLine s3).of_frame hframe4
  refine ⟨(((hmarked.of_showLine hshow).of_frame (gap_step hgap).frame).returnFromInterrupt).of_frame hframe7, ?_⟩
  rw [State.irqMasked, hframe7.flags]
  exact returnFromInterrupt_irqMasked s6

/-- A tick that is taken and not abandoned runs all its steps. -/
theorem exec_lineTick_eq_next {s t : State} (hreset : s.noReset) (henabled : s.tickEnabled = true)
    (h : exec .lineTick s = .next t) : inOrder Config.chip (tickSteps Config.chip) s = .next t := by
  rw [exec_lineTick_of_enabled henabled (totalLines_ne_zero_of_lineTick henabled h)] at h
  have hperforms := (shown_writeRel Config.chip (writeClasses .lineTick)).tickSteps (by simp) (by simp) (by simp)
    (by simp) s
  exact (hperforms.settle_eq_next h).resolve_right fun habandoned => habandoned.1 hreset

theorem State.nextLine_toNat {s : State} (htotal : s.mode.totalLines ≠ 0) :
    s.nextLine.toNat = (s.line.toNat + 1) % s.mode.totalLines.toNat := by
  have hpos : 0 < s.mode.totalLines.toNat :=
    Nat.pos_of_ne_zero fun hzero => htotal (BitVec.eq_of_toNat_eq hzero)
  have hlt := Nat.mod_lt (s.line.toNat + 1) hpos
  rw [State.nextLine, BitVec.toNat_ofNat, Nat.mod_eq_of_lt (by omega)]

/-- Settles O40: LINE is counted and marked once, and no other step, and nothing in the gaps, writes LINE or the two
flags. -/
theorem tickAdvancesLine : Obligations.TickAdvancesLine := by
  unfold Obligations.TickAdvancesLine
  intro s t hreset hrunning hirq hopen h
  have henabled : s.tickEnabled = true := (State.tickEnabled_iff s).2 ⟨hrunning, hirq, hopen⟩
  obtain ⟨⟨hline, hstart, hvsync⟩, hmask⟩ := inOrder_tickSteps_eq_next (exec_lineTick_eq_next hreset henabled h)
  refine ⟨?_, ?_, ?_, hmask, ?_, ?_⟩
  · rw [hline, State.nextLine_toNat (totalLines_ne_zero_of_lineTick henabled h)]
  · rw [hstart, hline]
    rfl
  · rw [hvsync, hline]
    rfl
  · exact exec_keeps_of_noReset (mode_rel (mode_not_mem_writeClasses (by simp) (by simp))) hreset h
  · exact exec_keeps_of_noReset (stateReg_rel (stateReg_not_mem_writeClasses (by simp) (by simp))) hreset h

/-! ## Ticks in a row (R111, R197) -/

/-- With nothing interposed a tick completes, on a blanking and on a visible line, and leaves IE and the schedule as they
are. -/
theorem exec_lineTick_of_quiet {s : State} (henabled : s.tickEnabled = true) (htotal : s.mode.totalLines ≠ 0)
    (hquiet : s.quiet) (hgranular : s.granular = true) :
    ∃ t, exec .lineTick s = .next t ∧ t.tmrIe = s.tmrIe ∧ t.quiet := by
  have hie : s.tickMarked.tmrIe = s.tmrIe :=
    (getFlag_setFlag_ne _ 5 1 _ (by decide) (by decide)).trans (getFlag_setFlag_ne _ 4 1 _ (by decide) (by decide))
  cases hrow : s.tickMarked.visibleRow with
  | none => exact ⟨_, exec_lineTick_of_blanking henabled htotal hquiet hrow, hie, State.tickMarked_quiet hquiet⟩
  | some row =>
    obtain ⟨t, hexec, hflushed⟩ := exec_lineTick_of_visible henabled htotal hquiet hgranular hrow rfl
    refine ⟨_, hexec, ?_, hflushed.quiet (State.lineStarted_quiet _ (State.tickMarked_quiet hquiet))⟩
    have htmr : t.tmr = s.tickMarked.tmr := hflushed.tmr.trans (State.lineStarted_tmr _ _)
    exact (congrArg (fun tmr : LineTimer => getFlag tmr.ctrl 1) htmr).trans hie

/-- The states between two simulated ticks. -/
structure TickReady (s : State) : Prop where
  running : s.running = true
  enabled : s.tmrIe = true
  opened : s.irqMasked = false
  quiet : s.quiet
  granular : s.granular = true
  line : s.line.toNat < s.mode.totalLines.toNat

/-- The pending line interrupt raised by the harness (R111). -/
def State.tickPending (s : State) : State := { s with tmr := s.tmr.setCtrl 4 true }

theorem simulatedTick_eq (s : State) : simulatedTick s = exec .lineTick s.tickPending := rfl

theorem State.tickPending_tmrIe (s : State) : s.tickPending.tmrIe = s.tmrIe :=
  getFlag_setFlag_ne _ 4 1 _ (by decide) (by decide)

theorem State.tickPending_tcf1 (s : State) : s.tickPending.tcf1 = true := getFlag_setFlag_same _ 4 true (by decide)

/-- A quiet schedule has no RESET event in it. -/
theorem State.quiet.noReset {s : State} (hquiet : s.quiet) : s.noReset := fun ts hts => by
  rw [show s.gaps = [] from hquiet] at hts
  cases hts

/-- One simulated tick (R111). -/
theorem TickReady.simulatedTick {s : State} (h : TickReady s) :
    ∃ t, simulatedTick s = .next t ∧ TickReady t ∧ t.mode = s.mode
      ∧ t.line.toNat = (s.line.toNat + 1) % s.mode.totalLines.toNat ∧ t.frameStart = decide (t.line = 0) := by
  have htotal : s.mode.totalLines ≠ 0 := fun hzero => by
    have hlt := h.line
    rw [hzero] at hlt
    exact absurd hlt (Nat.not_lt_zero _)
  have hquiet : s.tickPending.quiet := h.quiet
  have hirq : s.tickPending.irq = true :=
    Bool.and_eq_true_iff.2 ⟨s.tickPending_tmrIe.trans h.enabled, s.tickPending_tcf1⟩
  have htaken : s.tickPending.tickEnabled = true := (State.tickEnabled_iff _).2 ⟨h.running, hirq, h.opened⟩
  obtain ⟨t, hexec, hie, hquiet'⟩ := exec_lineTick_of_quiet htaken htotal hquiet h.granular
  obtain ⟨hline, hstart, -, hmask, hmode, hstate⟩ :=
    tickAdvancesLine s.tickPending t hquiet.noReset h.running hirq h.opened hexec
  refine ⟨t, (simulatedTick_eq s).trans hexec, ⟨?_, ?_, hmask, hquiet', ?_, ?_⟩, hmode, hline, hstart⟩
  · rw [State.running, State.st, hstate]
    exact h.running
  · exact hie.trans (s.tickPending_tmrIe.trans h.enabled)
  · rw [State.granular, hmode]
    exact h.granular
  · rw [hline, hmode]
    exact Nat.mod_lt _ (Nat.zero_lt_of_lt h.line)

/-- `n` simulated ticks; a state that is marked as R198 asks stays so. -/
theorem TickReady.times_simulatedTick (n : Nat) : ∀ {s : State}, TickReady s →
    ∃ t, times Machine.simulatedTick n s = .next t
      ∧ t.line.toNat = (s.line.toNat + n) % s.mode.totalLines.toNat
      ∧ (0 < n ∨ s.frameStart = decide (s.line = 0) → t.frameStart = decide (t.line = 0)) := by
  induction n with
  | zero =>
    intro s h
    exact ⟨s, rfl, (Nat.mod_eq_of_lt h.line).symm, fun hmarked => hmarked.resolve_left (Nat.lt_irrefl 0)⟩
  | succ n ih =>
    intro s h
    obtain ⟨u, htick, hready, hmode, hline, hmarked⟩ := h.simulatedTick
    obtain ⟨t, hticks, hline', hmarked'⟩ := ih hready
    refine ⟨t, ?_, ?_, fun _ => hmarked' (.inr hmarked)⟩
    · rw [times, htick]
      exact hticks
    · rw [hline', hmode, hline, Nat.mod_add_mod, Nat.add_assoc, Nat.add_comm 1 n]

/-- Settles O41: each simulated tick completes and leaves the state ready for the next. -/
theorem ticksCountLines : Obligations.TicksCountLines := by
  unfold Obligations.TicksCountLines
  intro n s hrunning henabled hopen hquiet hgranular hline
  obtain ⟨t, hticks, hcount, hmarked⟩ :=
    TickReady.times_simulatedTick n ⟨hrunning, henabled, hopen, hquiet, hgranular, hline⟩
  exact ⟨t, hticks, hcount, fun hpos => hmarked (.inl hpos)⟩

end Sys2Proof.Machine
end

section
/-! The waits and RDREG (spec/44_sync.md R210 to R212, R214): what one sample of a wait leaves pending, which operation a
move of HOST runs while it is held, and what a read of each register number returns. -/

namespace Sys2Proof.Machine

/-! ## The waits (R210 to R212) -/

theorem holdUntil_decide (p : Prop) [Decidable p] (i : Instr) (s : State) :
    holdUntil (decide p) i s = { s with pending := if p then none else some i } := by
  simp only [holdUntil, decide_eq_true_eq]

/-- R211: one sample of WAIT_VSYNC. -/
theorem exec_waitVsync (s : State) :
    exec .waitVsync s = .next { s with pending := if s.frameStart = true then none else some .waitVsync } := rfl

/-- R212: one sample of WAIT_LINE. -/
theorem exec_waitLine (n : Half) (s : State) :
    exec (.waitLine n) s =
      .next { s with pending := if s.line.toNat = n.toNat then none else some (.waitLine n) } :=
  congrArg Host.Outcome.next (holdUntil_decide (s.line.toNat = n.toNat) (.waitLine n) s)

/-- R210: whether the schedule has ended or HOST's slot is at its head, a held HOST samples its wait again, with what is
left of the schedule. -/
theorem step_of_pending_some {s : State} {rest : List Slot} {i : Instr}
    (hslot : (s.agenda = [] ∧ rest = []) ∨ s.agenda = .host :: rest) (hmask : s.irqMasked = false)
    (hpending : s.pending = some i) : step s = exec i { s with agenda := rest } := by
  obtain ⟨hended, rfl⟩ | hhead := hslot
  · rw [step_of_agenda_nil hended, hostMove_of_pending_some hpending hmask, ← hended]
  · rw [step_of_host_slot hhead]
    exact hostMove_of_pending_some hpending hmask

/-- Settles O44: both waits are one sample each, and a held HOST takes that sample at each of its moves. -/
theorem waitsHold : Obligations.WaitsHold := by
  unfold Obligations.WaitsHold
  intro n s
  refine ⟨fun htrue => ?_, fun hfalse => ?_, fun htrue => ?_, fun hfalse => ?_, fun rest hslot hmask =>
    ⟨fun hpending => ?_, fun hpending => ?_⟩⟩
  · rw [exec_waitVsync, if_pos htrue]
  · rw [exec_waitVsync, if_neg (Bool.eq_false_iff.1 hfalse)]
  · rw [exec_waitLine, if_pos htrue]
  · rw [exec_waitLine, if_neg hfalse]
  · exact (step_of_pending_some hslot hmask hpending).trans (exec_waitVsync _)
  · exact (step_of_pending_some hslot hmask hpending).trans (exec_waitLine n _)

/-! ## RDREG (R214, R38) -/

theorem exec_rdreg (n : Byte) (s : State) : exec (.rdreg n) s = .next { s with result0 := readRegister s n } := rfl

/-- A number in the table reads its own entry, since no number stands there twice. -/
theorem readRegister_of_mem {n : Byte} {read : State → Word} (hmem : (n, read) ∈ registerTable) (s : State) :
    readRegister s n = read s := by
  have hnodup : (registerTable.map Prod.fst).Nodup := by decide
  obtain ⟨before, after, htable⟩ := List.append_of_mem hmem
  have hlookup : registerTable.lookup n = some read := by
    refine List.lookup_eq_some_iff.2 ⟨before, after, htable, fun p hp => bne_iff_ne.2 fun hsame => ?_⟩
    rw [htable, List.map_append, List.map_cons] at hnodup
    exact List.disjoint_of_nodup_append hnodup (List.mem_map_of_mem hp) (hsame ▸ List.mem_cons_self)
  rw [readRegister, hlookup]

/-- R38: a number that no register has reads as 0. -/
theorem readRegister_of_not_mem {n : Byte} (hn : n ∉ registerTable.map Prod.fst) (s : State) :
    readRegister s n = 0 := by
  have hlookup : registerTable.lookup n = none :=
    List.lookup_eq_none_iff.2 fun p hp => bne_iff_ne.2 fun hsame => hn (hsame ▸ List.mem_map_of_mem hp)
  rw [readRegister, hlookup]

theorem map_readRegister (s : State) :
    (registerTable.map Prod.fst).map (readRegister s) = registerTable.map (fun entry => entry.2 s) := by
  rw [List.map_map]
  exact List.map_congr_left fun entry hentry => readRegister_of_mem hentry s

/-- The mask that a read puts on a control register leaves it as it is where the reserved bits are zero. -/
theorem and_of_reserved_zero {r used : Word} (hr : r &&& ~~~used = 0) : r &&& used = r :=
  calc r &&& used = r &&& used ||| r &&& ~~~used := by rw [hr]; exact BitVec.or_zero.symm
    _ = r &&& (used ||| ~~~used) := BitVec.and_or_distrib_left.symm
    _ = r := by rw [BitVec.or_not_self, BitVec.and_allOnes]

/-- Settles O45: the numbers of the statement are those of the register table. Ten of its registers are read through a
mask, which drops reserved bits alone. -/
theorem rdregResult : Obligations.RdregResult := by
  unfold Obligations.RdregResult
  intro s
  refine ⟨fun n => exec_rdreg n s, fun hreserved => ?_, fun n hn => readRegister_of_not_mem hn s⟩
  obtain ⟨hstate, hflags, hmflags, hpll, htmr, hdcsr0, hdcsr1, hfb, hfrm, hcolor⟩ := hreserved
  refine (map_readRegister s).trans ?_
  simp only [registerTable, descriptorTable, List.cons_append, List.nil_append, List.map_cons, List.map_nil,
    and_of_reserved_zero hstate, and_of_reserved_zero hflags, and_of_reserved_zero hmflags, and_of_reserved_zero hpll,
    and_of_reserved_zero htmr, and_of_reserved_zero hdcsr0, and_of_reserved_zero hdcsr1, and_of_reserved_zero hfb,
    and_of_reserved_zero hfrm, and_of_reserved_zero hcolor]

end Sys2Proof.Machine
end

section
/-! Host accesses to the frame buffer (spec/45_host_interface.md R225 to R234): by row pointer, by pixel and by address,
and the row writers with their round trip (R228 to R232). Every store of them is `storeByte`, whose effect is said
once. -/

namespace Sys2Proof.Machine

/-! ## Coordinates in range (R313) -/

theorem State.pixelInside_iff (s : State) (x y : Half) : s.pixelInside x y = true ↔ s.pixelInRange x y := by
  simp only [State.pixelInside, State.xInside, State.yInside, Bool.and_eq_true, decide_eq_true_eq, and_assoc]
  rfl

theorem State.rowInside_iff (s : State) (y : Half) : (s.running && s.yInside y) = true ↔ s.rowInRange y := by
  simp only [State.yInside, Bool.and_eq_true, decide_eq_true_eq]
  rfl

theorem State.pixelInRange.rowInRange {s : State} {x y : Half} (h : s.pixelInRange x y) : s.rowInRange y := by
  obtain ⟨hrunning, -, -, hy0, hy⟩ := h
  exact ⟨hrunning, hy0, hy⟩

theorem State.pixelInRange.x_lt {s : State} {x y : Half} (h : s.pixelInRange x y) :
    x.toInt.toNat < s.mode.width.toNat := by
  obtain ⟨-, hx0, hx, -, -⟩ := h
  omega

/-- The coordinates are judged by STATE and the VideoMode registers alone. -/
theorem State.pixelInRange.congr {s t : State} {x y : Half} (h : s.pixelInRange x y) (hstate : t.stateReg = s.stateReg)
    (hmode : t.mode = s.mode) : t.pixelInRange x y := by
  simpa only [State.pixelInRange, State.running, State.st, hstate, hmode] using h

/-! ## ROW_POINTER (R225) -/

theorem exec_rowPointer (y : Half) (s : State) : exec (.rowPointer y) s = .next (rowPointer y s) := rfl

/-- Settles O53: the pointer is that of pixel 0 of the row. -/
theorem rowPointerResult : Obligations.RowPointerResult := by
  unfold Obligations.RowPointerResult
  intro y s
  rw [exec_rowPointer, rowPointer]
  constructor
  · intro hrow
    rw [if_pos ((s.rowInside_iff y).2 hrow)]
    rfl
  · intro hout
    rw [if_neg fun hinside => hout ((s.rowInside_iff y).1 hinside)]

/-! ## One byte (R80, R81) -/

theorem memGet_memSet (m : Memory) (a x : Nat) (v : Byte) :
    memGet (memSet m a v) x = if x = a then some v else memGet m x := by
  split
  next h => rw [h, memGet_memSet_same]
  next h => exact memGet_memSet_ne m a x v h

/-- R81: what a host store leaves. -/
theorem storeByte_result (C : Config) {a : Nat} (v : Byte) {s : State} (hin : s.inFrameBuffer a = true) :
    ∃ t, storeByte a v s = .next t ∧ t = { s with cache := t.cache }
      ∧ (∀ b, memGet t.cache b = if b = a then some v else memGet s.cache b)
      ∧ ∀ b, hostByte C t b = if b = a then v else hostByte C s b :=
  ⟨_, storeByte_of_inside hin, rfl, fun b => memGet_memSet s.cache a b v, fun b => hostByte_store C s a b v⟩

theorem loadByte_of_outside {C : Config} {a : Nat} {s : State} (hout : ¬ s.inFrameBuffer a = true) :
    loadByte C a s = .refused .outsideFrameBuffer := if_neg hout

theorem storeByte_of_outside {a : Nat} {v : Byte} {s : State} (hout : ¬ s.inFrameBuffer a = true) :
    storeByte a v s = .refused .outsideFrameBuffer := if_neg hout

/-! ## GET_PIXEL and SET_PIXEL (R226, R227) -/

section
variable {x y : Half} {s : State}

theorem exec_getPixel_of_inside (hpixel : s.pixelInRange x y) :
    exec (.getPixel x y) s = loadByte Config.chip (s.pixAddr x.toInt.toNat y.toInt.toNat) s :=
  if_pos ((s.pixelInside_iff x y).2 hpixel)

theorem exec_getPixel_of_outside (hout : ¬ s.pixelInRange x y) :
    exec (.getPixel x y) s = .next { s with result0 := 0 } :=
  if_neg fun hinside => hout ((s.pixelInside_iff x y).1 hinside)

theorem exec_setPixel_of_inside (hpixel : s.pixelInRange x y) (v : Byte) :
    exec (.setPixel x y v) s = storeByte (s.pixAddr x.toInt.toNat y.toInt.toNat) v s :=
  if_pos ((s.pixelInside_iff x y).2 hpixel)

theorem exec_setPixel_of_outside (hout : ¬ s.pixelInRange x y) (v : Byte) : exec (.setPixel x y v) s = .next s :=
  if_neg fun hinside => hout ((s.pixelInside_iff x y).1 hinside)

end

/-- Settles O54: in range GET_PIXEL is the load of the pixel's byte. -/
theorem getPixelResult : Obligations.GetPixelResult := by
  unfold Obligations.GetPixelResult
  intro x y s a
  refine ⟨fun hpixel hin => ?_, fun hpixel hout => ?_, exec_getPixel_of_outside⟩
  · exact (exec_getPixel_of_inside hpixel).trans (loadByte_of_inside hin)
  · exact (exec_getPixel_of_inside hpixel).trans (loadByte_of_outside (Bool.eq_false_iff.1 hout))

/-- Settles O55: in range SET_PIXEL is the store of the pixel's byte. -/
theorem setPixelResult : Obligations.SetPixelResult := by
  unfold Obligations.SetPixelResult
  intro x y v s a
  refine ⟨fun hpixel hin => ?_, fun hpixel hout => ?_, fun hout => exec_setPixel_of_outside hout v⟩
  · rw [exec_setPixel_of_inside hpixel]
    exact storeByte_result Config.chip v hin
  · exact (exec_setPixel_of_inside hpixel v).trans (storeByte_of_outside (Bool.eq_false_iff.1 hout))

/-! ## FB_LOAD and FB_STORE (R233, R234, R92) -/

theorem exec_fbLoad (addr : Word) (s : State) : exec (.fbLoad addr) s = loadByte Config.chip addr.toNat s := rfl

theorem exec_fbStore (v : Byte) (addr : Word) (s : State) : exec (.fbStore v addr) s = storeByte addr.toNat v s := rfl

/-- An address that an operand holds is below 2^32 already. -/
theorem State.inFrameBuffer_word_iff (s : State) (addr : Word) :
    s.inFrameBuffer addr.toNat = true ↔
      s.fbValid = true ∧ s.fb.base.toNat ≤ addr.toNat ∧ addr.toNat < s.fb.base.toNat + s.fb.size.toNat := by
  simp only [State.inFrameBuffer, Bool.and_eq_true, decide_eq_true_eq, addr.isLt, and_true]

/-- Settles O58: the raw accesses are the load and the store of the one byte. -/
theorem rawAccessResult : Obligations.RawAccessResult := by
  unfold Obligations.RawAccessResult
  intro addr v s inside
  rw [exec_fbLoad, exec_fbStore]
  constructor
  · intro hinside
    have hin : s.inFrameBuffer addr.toNat = true := (s.inFrameBuffer_word_iff addr).2 hinside
    exact ⟨loadByte_of_inside hin, storeByte_result Config.chip v hin⟩
  · intro houtside
    have hout : ¬ s.inFrameBuffer addr.toNat = true := fun hin => houtside ((s.inFrameBuffer_word_iff addr).1 hin)
    exact ⟨loadByte_of_outside hout, storeByte_of_outside hout⟩

/-! ## The row writers (R228 to R231) -/

section
variable {α : Type} [Inhabited α] {C : Config} {conv : α → Byte} {y n : Half} {src : List α} {s : State}

theorem writeRow_of_inside (hrow : s.rowInRange y) (hn : 1 ≤ n.toNat) :
    writeRow C conv y n src s =
      settle (storeRun C (rowByte conv src n.toNat s.mode.width.toNat) (s.pixAddr 0 y.toInt.toNat)
        s.mode.width.toNat 0 s) := by
  refine if_pos ?_
  rw [Bool.and_eq_true, s.rowInside_iff]
  exact ⟨hrow, decide_eq_true hn⟩

theorem writeRow_of_outside (hout : ¬ s.rowInRange y ∨ n = 0) : writeRow C conv y n src s = .next s := by
  refine if_neg fun hinside => ?_
  rw [Bool.and_eq_true, s.rowInside_iff, decide_eq_true_eq] at hinside
  obtain ⟨hrow, hn⟩ := hinside
  obtain hout | rfl := hout
  · exact hout hrow
  · exact absurd hn (by decide)

/-- R228: the source element of a pixel of the row is one of the `n`, so its converted byte is there. -/
theorem some_rowByte {width k : Nat} (hn : 1 ≤ src.length) (hk : k < width) :
    some (rowByte conv src src.length width k) = (src[k * src.length / width]?).map conv := by
  have hsource : k * src.length / width < src.length :=
    Nat.div_lt_of_lt_mul (Nat.mul_lt_mul_of_pos_right hk hn)
  rw [rowByte, sourceIndex, List.getD_eq_getElem?_getD, List.getElem?_eq_getElem hsource]
  rfl

/-- R228, with nothing interposed: each pixel of the row becomes its converted source element. -/
theorem writeRow_quiet (hlength : src.length = n.toNat) (hrow : s.rowInRange y) (hn : 1 ≤ n.toNat)
    (hin : ∀ k, k < s.mode.width.toNat → s.inFrameBuffer (s.pixAddr 0 y.toInt.toNat + k) = true) (hquiet : s.quiet) :
    ∃ t, writeRow C conv y n src s = .next t ∧ t = { s with cache := t.cache }
      ∧ ∀ x, memGet t.cache x =
          if s.pixAddr 0 y.toInt.toNat ≤ x ∧ x < s.pixAddr 0 y.toInt.toNat + s.mode.width.toNat then
            (src[(x - s.pixAddr 0 y.toInt.toNat) * n.toNat / s.mode.width.toNat]?).map conv
          else memGet s.cache x := by
  obtain ⟨t, hrun, hframe, hcache⟩ :=
    storeRun_quiet C (rowByte conv src n.toNat s.mode.width.toNat) (s.pixAddr 0 y.toInt.toNat) s.mode.width.toNat 0 s
      hquiet hin
  refine ⟨t, ?_, hframe, fun x => ?_⟩
  · rw [writeRow_of_inside hrow hn, hrun, settle_next]
  · rw [hcache x, Nat.add_zero]
    split
    next hx => rw [← hlength, some_rowByte (by omega) (by omega)]
    next => rfl

end

/-- Settles O56: the three row writers are one run of stores, each with its own conversion. -/
theorem rowWritersResult : Obligations.RowWritersResult := by
  unfold Obligations.RowWritersResult
  intro y n bytes values s hbytes hvalues a w source
  constructor
  · intro hrow hn hin hquiet
    refine ⟨?native, writeRow_quiet hbytes hrow hn hin hquiet, writeRow_quiet hvalues hrow hn hin hquiet⟩
    case native =>
      obtain ⟨t, hwrite, hframe, hcache⟩ := writeRow_quiet (C := Config.chip) (conv := id) hbytes hrow hn hin hquiet
      exact ⟨t, hwrite, hframe, fun x => (hcache x).trans (by rw [Option.map_id_fun, id]; rfl)⟩
  · exact fun hout => ⟨writeRow_of_outside hout, writeRow_of_outside hout, writeRow_of_outside hout⟩

/-! ## The round trip of a row (R232) -/

/-- The frame of a run of stores that goes on, whatever happens in its gaps: the registers an agent's step keeps. -/
theorem storeRun_frame {C : Config} {value : Nat → Byte} {base n i : Nat} {s t : State}
    (h : storeRun C value base n i s = .next t) : AgentFrame s t := by
  have hkeeps := storeRun_step (C := C) (value := value) (base := base) n i s
  rw [h] at hkeeps
  exact hkeeps.frame

/-- A gap leaves the host's view as it is. -/
theorem hostByte_gap {C : Config} {s t : State} (h : gap C s = .next t) (a : Nat) :
    hostByte C t a = hostByte C s a := by
  have hkeeps := (hostByte_rel C a).gap s
  rw [h] at hkeeps
  exact hkeeps

theorem State.inFrameBuffer_congr {s t : State} (hfb : t.fb = s.fb) (a : Nat) :
    t.inFrameBuffer a = s.inFrameBuffer a := by
  simp only [State.inFrameBuffer, State.fbValid, hfb]

/-- A run of stores that goes on, whatever happens in its gaps: its bytes lie in the frame buffer and the host sees
their values; every other byte it sees as before. -/
theorem storeRun_eq_next {C : Config} {value : Nat → Byte} {base : Nat} (n : Nat) :
    ∀ {i : Nat} {s t : State}, storeRun C value base n i s = .next t →
      (∀ k, k < n → s.inFrameBuffer (base + i + k) = true)
      ∧ ∀ x, hostByte C t x = if base + i ≤ x ∧ x < base + i + n then value (x - base) else hostByte C s x := by
  induction n with
  | zero =>
    intro i s t h
    cases h
    exact ⟨fun k hk => absurd hk (Nat.not_lt_zero k), fun x => (if_neg (by omega)).symm⟩
  | succ n ih =>
    intro i s t h
    obtain ⟨s1, hstore, hafter⟩ := andThen_eq_next h
    obtain ⟨s2, hgap, hrest⟩ := andThen_eq_next hafter
    obtain ⟨hin, rfl⟩ := storeByte_cases (asPart_eq_next hstore)
    obtain ⟨hinside, hhost⟩ := ih hrest
    constructor
    · intro k hk
      cases k with
      | zero => exact hin
      | succ k =>
        have hnext := hinside k (by omega)
        rw [State.inFrameBuffer_congr (gap_step hgap).frame.fb] at hnext
        rw [show base + i + (k + 1) = base + (i + 1) + k by omega]
        exact hnext
    · intro x
      rw [hhost, hostByte_gap hgap, hostByte_store]
      by_cases hx : x = base + i
      · subst hx
        rw [if_neg (by omega), if_pos rfl, if_pos (by omega), Nat.add_sub_cancel_left]
      · rw [if_neg hx]
        exact if_congr (by omega) rfl rfl

/-- With as many elements as pixels, each pixel is its own element (R229, R232). -/
theorem rowByte_native {src : List Byte} {width k : Nat} (hlength : src.length = width) (hk : k < width) :
    src[k]? = some (rowByte id src width width k) := by
  have hrow := some_rowByte (conv := id) (src := src) (width := width) (by omega) hk
  rw [hlength, Nat.mul_div_cancel k (by omega), Option.map_id_fun, id] at hrow
  exact hrow.symm

/-- Settles O57: the row's bytes stand where GET_PIXEL looks for them, the host sees what was stored there, and the gaps
leave the registers that say where it is. -/
theorem rowRoundTrip : Obligations.RowRoundTrip := by
  unfold Obligations.RowRoundTrip
  intro x y n src s t hreset hlength hwidth hpixel h
  have hk := hpixel.x_lt
  change writeRow Config.chip id y n src s = .next t at h
  rw [writeRow_of_inside hpixel.rowInRange (by omega), hwidth] at h
  have hrun := (settle_eq_next h).resolve_right ((storeRun_orderly _ _ _ _ _ s hreset).1 t)
  have hframe := storeRun_frame hrun
  obtain ⟨hinside, hhost⟩ := storeRun_eq_next _ hrun
  have haddr : t.pixAddr x.toInt.toNat y.toInt.toNat = s.pixAddr 0 y.toInt.toNat + 0 + x.toInt.toNat := by
    simp only [State.pixAddr, State.win, hframe.fb, hframe.mode]; omega
  have hin : t.inFrameBuffer (t.pixAddr x.toInt.toNat y.toInt.toNat) = true := by
    rw [State.inFrameBuffer_congr hframe.fb, haddr]
    exact hinside _ hk
  refine ⟨_, (exec_getPixel_of_inside (hpixel.congr hframe.stateReg hframe.mode)).trans (loadByte_of_inside hin), ?_⟩
  have hbyte : hostByte Config.chip t (t.pixAddr x.toInt.toNat y.toInt.toNat) =
      rowByte id src s.mode.width.toNat s.mode.width.toNat x.toInt.toNat := by
    rw [hhost, haddr, if_pos (by omega), Nat.add_zero, Nat.add_sub_cancel_left]
  rw [rowByte_native (hlength.trans hwidth) hk, ← hbyte]
  simp [zextByte]

end Sys2Proof.Machine
end

section
/-! CACHE_FLUSH and CACHE_EVICT (spec/45_host_interface.md R240, R241; spec/20_memory.md R83, R84), FB_ALLOC and FB_FREE
(R237, R238), NOP and FRAME_SIZE (R242, spec/40_mode_resolver.md R128). -/

namespace Sys2Proof.Machine

/-! ## CACHE_FLUSH and CACHE_EVICT (R240, R241) -/

theorem memGet_memErase (m : Memory) (a x : Nat) : memGet (memErase m a) x = if x = a then none else memGet m x := by
  split
  next h => rw [h, memGet_memErase_same]
  next h => exact memGet_memErase_ne m a x h

/-- A write-back leaves its byte clean, and no other byte (R83). -/
theorem cache_writeBack (a x : Nat) (s : State) :
    memGet (writeBack a s).cache x = if x = a then none else memGet s.cache x := by
  obtain ⟨hclean, h⟩ | ⟨v, -, h⟩ := writeBack_cases a s
  · rw [h]
    split
    next hx => rw [hx, hclean]
    next => rfl
  · rw [h]
    exact memGet_memErase s.cache a x

/-- A flush with nothing interposed leaves the bytes of its range clean, and no others (R84). -/
theorem cache_flushRange_quiet {C : Config} (n : Nat) :
    ∀ {a : Nat} {s t : State}, s.gaps = [] → flushRange C n a s = .next t →
      ∀ x, memGet t.cache x = if a ≤ x ∧ x < a + n then none else memGet s.cache x := by
  induction n with
  | zero =>
    intro a s t _ h x
    cases h
    exact (if_neg (by omega)).symm
  | succ n ih =>
    intro a s t hquiet h x
    have hquiet' : (writeBack a s).gaps = [] := by rw [writeBack_eq]; exact hquiet
    rw [flushRange, gap_of_quiet hquiet', andThen_next] at h
    rw [ih hquiet' h, cache_writeBack]
    by_cases hx : x = a
    · rw [if_pos hx, ite_self, if_pos (by omega)]
    · rw [if_neg hx]
      exact if_congr (by omega) rfl rfl

theorem exec_cacheFlush (len : Half) (addr : Word) (s : State) :
    exec (.cacheFlush len addr) s = settle (flushRange Config.chip len.toNat addr.toNat s) := rfl

theorem exec_cacheEvict (addr : Word) (s : State) : exec (.cacheEvict addr) s = .next (writeBack addr.toNat s) := rfl

theorem writeBack_of_clean {a : Nat} {s : State} (hclean : memGet s.cache a = none) : writeBack a s = s := by
  simp only [writeBack, hclean]

theorem writeBack_of_dirty {a : Nat} {v : Byte} {s : State} (hdirty : memGet s.cache a = some v) :
    writeBack a s = { s with mem := memSet s.mem a v, cache := memErase s.cache a } := by
  simp only [writeBack, hdirty]

/-- Settles O60: a flush is write-backs of the bytes of its range, an eviction is one write-back. -/
theorem cacheOperationsResult : Obligations.CacheOperationsResult := by
  unfold Obligations.CacheOperationsResult
  refine ⟨fun len addr s hquiet => ?flush, fun addr s => ⟨fun v hdirty => ?dirty, fun hclean => ?clean⟩⟩
  case flush =>
    obtain ⟨t, hflush, hmem, hhost, hframe⟩ := flushRange_quiet (C := Config.chip) len.toNat addr.toNat s hquiet
    refine ⟨t, ?_, hframe, cache_flushRange_quiet _ hquiet hflush, hmem, hhost⟩
    rw [exec_cacheFlush, hflush, settle_next]
  case dirty =>
    rw [exec_cacheEvict, writeBack_of_dirty hdirty]
    exact ⟨_, rfl, rfl, fun a => memGet_memSet s.mem _ a v, fun a => memGet_memErase s.cache _ a⟩
  case clean => rw [exec_cacheEvict, writeBack_of_clean hclean]

/-! ## FB_ALLOC and FB_FREE (R237, R238) -/

theorem allocate_of_no_grant {C : Config} {s : State} (hdraw : C.allocDraw s.draws (fbBytes C s) = none) :
    allocate C s = { s with draws := s.draws + 1 } := by
  simp only [allocate, hdraw]

theorem allocate_of_grant {C : Config} {s : State} {a : Nat} (hdraw : C.allocDraw s.draws (fbBytes C s) = some a) :
    allocate C s =
      { s with
        fb := { base := BitVec.ofNat 32 a, size := BitVec.ofNat 32 (fbBytes C s), ctrl := setFlag s.fb.ctrl 0 true }
        mem := memEraseRange s.mem a (fbBytes C s), epoch := s.epoch + 1, draws := s.draws + 1 } := by
  simp only [allocate, hdraw]

theorem exec_fbAlloc_of_enabled {s : State} (hvalid : s.fbValid = false) (hgran : s.mode.gran ≠ 0) :
    exec .fbAlloc s = .next (allocate Config.chip s) :=
  if_neg (by simp [hvalid, (modeWritten_iff s).2 hgran])

theorem exec_fbAlloc_of_not_enabled {s : State} (h : s.fbValid = true ∨ s.mode.gran = 0) :
    exec .fbAlloc s = .next s :=
  if_pos (by simpa [State.modeWritten] using h)

theorem fbFree_of_disarmed {s : State} (hdisarmed0 : s.dma0.erq = false) (hdisarmed1 : s.dma1.erq = false) :
    fbFree s = .next (release s) :=
  if_neg (by simp [hdisarmed0, hdisarmed1])

theorem exec_fbFree_of_armed {s : State} (harmed : s.dma0.erq = true ∨ s.dma1.erq = true) :
    exec .fbFree s = .next s :=
  if_pos (by simpa using harmed)

/-- Settles O59: a grant obeys the law of the draw, and forgets the bytes of its range. -/
theorem allocAndFreeResult : Obligations.AllocAndFreeResult := by
  unfold Obligations.AllocAndFreeResult
  intro s size
  refine ⟨fun hvalid hgran => ?alloc, exec_fbAlloc_of_not_enabled,
    fun hdisarmed0 hdisarmed1 => fbFree_of_disarmed hdisarmed0 hdisarmed1, exec_fbFree_of_armed⟩
  case alloc =>
    rw [exec_fbAlloc_of_enabled hvalid hgran]
    split
    next hdraw => rw [allocate_of_no_grant hdraw]
    next a hdraw =>
      obtain ⟨haligned, hfits⟩ := Config.allocDraw_law hdraw
      rw [allocate_of_grant hdraw]
      exact ⟨haligned, hfits, _, rfl, rfl, memGet_memEraseRange s.mem a size⟩

/-! ## NOP and FRAME_SIZE (R242, R128) -/

theorem exec_nop (s : State) : exec .nop s = .next s := rfl

theorem exec_frameSize (s : State) :
    exec .frameSize s = .next { s with result0 := s.mode.width, result1 := s.mode.height } := rfl

/-- Settles O46: both are one step as the model writes them. -/
theorem nopAndFrameSizeResult : Obligations.NopAndFrameSizeResult := by
  unfold Obligations.NopAndFrameSizeResult
  exact fun s => ⟨exec_nop s, exec_frameSize s⟩

end Sys2Proof.Machine
end

section
/-! Where the model refuses (spec/00_scope.md R13, spec/45_host_interface.md R221, spec/60_exceptions.md R252, R262,
spec/20_memory.md R79, spec/70_reset_and_hazards.md R302): the guard of each operation that does. -/

namespace Sys2Proof.Machine

/-! ## BEGIN in RUNNING and a word under the mask (R221, R262) -/

theorem beginMode_of_not_idle {C : Config} {mode : Byte} {s : State} (hbusy : s.idle = false) :
    beginMode C mode s = .refused .beginWhileRunning :=
  if_pos (by simp [hbusy])

theorem takeCommand_of_masked {s : State} {w : Command} {ws : List Command} (hmask : s.irqMasked = true)
    (hcmd : s.cmd = w :: ws) : takeCommand s = .refused .hostInsideInterrupt := by
  rw [takeCommand, hcmd]
  exact if_pos hmask

/-! ## A beat (R79, R302) -/

theorem not_granular_of_mod_ne_zero {s : State} (hmod : s.mode.stride.toNat % s.mode.gran.toNat ≠ 0) :
    s.granular = false := by
  simp [State.granular, hmod]

theorem beatRefusal_of_not_granular {c : Channel} {s : State} (hragged : s.granular = false) :
    beatRefusal c s = some .strideNotGranular := by
  simp [beatRefusal, hragged]

theorem beatRefusal_of_misaligned {c : Channel} {s : State} (hgranular : s.granular = true)
    (hbeat : 1 < (s.chan c).beat.toNat) (hmisaligned : (s.chan c).saddr.toNat % (s.chan c).beat.toNat ≠ 0) :
    beatRefusal c s = some .misalignedBeat := by
  simp [beatRefusal, beatAligned, hgranular, hmisaligned, hbeat]

theorem exec_dmaBeat_of_beatRefusal {c : Channel} {s : State} {e : Refusal} (henabled : beatEnabled c s = true)
    (hrefusal : beatRefusal c s = some e) : exec (.dmaBeat c) s = .refused e := by
  rw [exec_dmaBeat_of_enabled henabled, beat, hrefusal]
  rfl

/-! ## DMA_REPROGRAM, DMA_CONFIGURE and LINE_TICK under a ragged stride (R302) -/

theorem reprogram_of_not_granular {C : Config} {p : Word} {s : State} (hragged : s.granular = false) :
    reprogram C p s = .refused .strideNotGranular :=
  if_neg (Bool.eq_false_iff.1 hragged)

theorem configure_of_not_granular {C : Config} {s : State} (hragged : s.granular = false) :
    configure C s = .refused .strideNotGranular :=
  if_neg (Bool.eq_false_iff.1 hragged)

/-- A visible line begins with DMA_REPROGRAM. -/
theorem showLine_of_not_granular {C : Config} {s : State} {row : Nat} (hrow : s.visibleRow = some row)
    (hragged : s.granular = false) : showLine C s = .refused .strideNotGranular := by
  rw [showLine, hrow]
  exact congrArg (andThen · _) (reprogram_of_not_granular hragged)

/-- R195: a tick with nothing interposed comes to its step 4 after the marks of steps 0 to 3. -/
theorem inOrder_tickSteps_of_showLine_refused {C : Config} {s : State} {e : Refusal} (hquiet : s.quiet)
    (hshow : showLine C s.tickMarked = .refused e) : inOrder C (tickSteps C) s = .refused e := by
  rw [tickSteps, inOrder_assign_of_quiet (by exact hquiet), inOrder_assign_of_quiet (by exact hquiet),
    inOrder_assign_of_quiet (by exact hquiet), inOrder_assign_of_quiet (by exact hquiet), inOrder_cons]
  exact congrArg (andThen · _) hshow

/-- Settles O7: each refusal is the guard its operation begins with, LINE_TICK's that of its DMA_REPROGRAM. -/
theorem refusedCases : Obligations.RefusedCases := by
  unfold Obligations.RefusedCases
  refine ⟨fun mode s hbusy => beginMode_of_not_idle hbusy, ?masked, ?beat, fun s hgran hmod => ?ragged⟩
  case masked =>
    intro s w ws hagenda hpending hmask hcmd
    rw [step_of_agenda_nil hagenda, hostMove_of_pending_none hpending, takeCommand_of_masked hmask hcmd]
  case beat =>
    intro c s herq hrem
    have henabled : beatEnabled c s = true := (beatEnabled_iff c s).2 ⟨herq, hrem⟩
    exact ⟨fun hgranular hbeat hmisaligned =>
        exec_dmaBeat_of_beatRefusal henabled (beatRefusal_of_misaligned hgranular hbeat hmisaligned),
      fun hmod =>
        exec_dmaBeat_of_beatRefusal henabled (beatRefusal_of_not_granular (not_granular_of_mod_ne_zero hmod))⟩
  case ragged =>
    have hragged : s.granular = false := not_granular_of_mod_ne_zero hmod
    refine ⟨fun p => ?reprogram, ?configure, ?tick⟩
    case reprogram => rw [exec_dmaReprogram_of_written hgran, reprogram_of_not_granular hragged, settle_refused]
    case configure =>
      intro hidle hvalid hdisarmed0 hdisarmed1
      rw [exec_dmaConfigure_of_enabled ((configureEnabled_iff s).2 ⟨hidle, hgran, hvalid, hdisarmed0, hdisarmed1⟩),
        configure_of_not_granular hragged, settle_refused]
    case tick =>
      intro row hrunning hirq hopen hquiet htotal line hle hdiv hlt
      have hrow : s.tickMarked.visibleRow = some row := State.visibleRow_eq_some_iff.2 ⟨hle, hdiv, hlt⟩
      rw [exec_lineTick_of_enabled ((State.tickEnabled_iff s).2 ⟨hrunning, hirq, hopen⟩) htotal,
        inOrder_tickSteps_of_showLine_refused hquiet (showLine_of_not_granular hrow hragged), settle_refused]

end Sys2Proof.Machine
end

section
/-! The agents while the block is dormant (spec/45_host_interface.md R223 (b), spec/70_reset_and_hazards.md R281): with
the timer stopped, the framer inactive and both channels disarmed, only PLL and CACHE have anything to do in a gap. -/

namespace Sys2Proof.Machine

/-- The timer is stopped, the framer inactive, and both channels are disarmed. -/
structure Dormant (s : State) : Prop where
  timer : s.tmrRun = false
  framer : s.frmActive = false
  channels : ∀ c, (s.chan c).erq = false

theorem Dormant.congr {s t : State} (h : Dormant s) (htmr : t.tmr = s.tmr) (hfrm : t.frm = s.frm)
    (hdma0 : t.dma0 = s.dma0) (hdma1 : t.dma1 = s.dma1) : Dormant t where
  timer := by rw [State.tmrRun, htmr]; exact h.timer
  framer := by rw [State.frmActive, hfrm]; exact h.framer
  channels := fun c => by
    cases c with
    | primary => rw [State.chan_primary, hdma0]; exact h.channels .primary
    | secondary => rw [State.chan_secondary, hdma1]; exact h.channels .secondary

theorem Dormant.beatEnabled {s : State} (h : Dormant s) (c : Channel) : beatEnabled c s = false := by
  simp [Machine.beatEnabled, h.channels c]

/-! ## The registers at their reset values (R223 (b), R281) -/

theorem dormant_of_reset_values {s : State} (htmr : s.tmr = LineTimer.stopped) (hfrm : s.frm = Framer.idle)
    (hdma0 : s.dma0 = Descriptor.zero) (hdma1 : s.dma1 = Descriptor.zero) : Dormant s where
  timer := by rw [State.tmrRun, htmr]; rfl
  framer := by rw [State.frmActive, hfrm]; rfl
  channels := fun c => by
    cases c with
    | primary => rw [State.chan_primary, hdma0]; rfl
    | secondary => rw [State.chan_secondary, hdma1]; rfl

theorem RegistersAtReset.dormant {s : State} (h : RegistersAtReset s) : Dormant s :=
  dormant_of_reset_values h.tmr h.frm h.dma0 h.dma1

theorem RegistersAtReset.idle {s : State} (h : RegistersAtReset s) : s.idle = true := by
  rw [State.idle, State.st, h.stateReg]; rfl

theorem RegistersAtReset.fbValid {s : State} (h : RegistersAtReset s) : s.fbValid = false := by
  rw [State.fbValid, h.fb]; rfl

theorem pllEnabled_of_off {s : State} (h : s.pll = Pll.off) : s.pllEnabled = false := by
  rw [State.pllEnabled, h]; rfl

theorem registersAtReset_resetEvent (s : State) : RegistersAtReset (resetEvent s) :=
  ⟨rfl, rfl, rfl, rfl, rfl, rfl, rfl, rfl, rfl, rfl, rfl, rfl, rfl⟩

/-- Settles O52: the timer does not run, the PLL is not enabled, the framer is inactive, no tick is due outside RUNNING,
no channel is armed, and a clean byte is not written back. -/
theorem noAgentButCacheEnabledAfterReset : Obligations.NoAgentButCacheEnabledAfterReset := by
  unfold Obligations.NoAgentButCacheEnabledAfterReset
  intro s hs
  have hdormant := hs.dormant
  refine ⟨?timer, ?pll, ?framer, ?tick, fun c => ?beat, fun addr hclean => ?cache⟩
  case timer => exact congrArg Host.Outcome.next (timerClock_of_stopped hdormant.timer)
  case pll =>
    rw [exec_pllLock, lockPll_of_not_enabled]
    simp [pllEnabled_of_off hs.pll]
  case framer => rw [exec_shiftOut, pixelClock_of_inactive hdormant.framer]
  case tick =>
    refine exec_lineTick_of_not_enabled fun henabled => ?_
    obtain ⟨hrunning, -, -⟩ := (State.tickEnabled_iff s).1 henabled
    rw [not_running_of_idle hs.idle] at hrunning
    cases hrunning
  case beat => exact exec_dmaBeat_of_not_enabled (Bool.eq_false_iff.1 (hdormant.beatEnabled c))
  case cache => rw [exec_cacheEvict, writeBack_of_clean hclean]

/-! ## A gap (R8) -/

/-- `s` after a gap in which only PLL and CACHE acted. -/
def State.afterGap (s : State) (pll : Pll) (mem cache : Memory) (gaps : List (List Turn)) : State :=
  { s with pll := pll, mem := mem, cache := cache, gaps := gaps }

/-- Only PLL and CACHE acted from `s` to `t`, PLL only if it was enabled. -/
def DormantStep (s t : State) : Prop :=
  ∃ pll mem cache gaps, t = s.afterGap pll mem cache gaps ∧ (s.pllEnabled = false → pll = s.pll)

theorem DormantStep.refl (s : State) : DormantStep s s := ⟨s.pll, s.mem, s.cache, s.gaps, rfl, fun _ => rfl⟩

theorem DormantStep.trans {s t u : State} (h : DormantStep s t) (k : DormantStep t u) : DormantStep s u := by
  obtain ⟨pll, mem, cache, gaps, rfl, hpll⟩ := h
  obtain ⟨pll', mem', cache', gaps', rfl, hpll'⟩ := k
  refine ⟨pll', mem', cache', gaps', rfl, fun hoff => ?_⟩
  obtain rfl : pll = s.pll := hpll hoff
  exact hpll' hoff

theorem DormantStep.dormant {s t : State} (h : DormantStep s t) (hs : Dormant s) : Dormant t := by
  obtain ⟨pll, mem, cache, gaps, rfl, -⟩ := h
  exact hs.congr rfl rfl rfl rfl

theorem Dormant.takeTurn {C : Config} {own : Option Channel} {u : Turn} {s : State} {r : OpenBeats × State}
    (hs : Dormant s) (h : takeTurn C own u .empty s = .next r) : r.1 = .empty ∧ DormantStep s r.2 := by
  cases u with
  | tmrStep => cases h; exact ⟨rfl, by rw [timerClock_of_stopped hs.timer]; exact .refl s⟩
  | pllLock =>
    cases h
    refine ⟨rfl, ?_⟩
    simp only [lockPll]
    split
    next henabled =>
      refine ⟨_, s.mem, s.cache, s.gaps, rfl, fun hoff => ?_⟩
      simp [hoff] at henabled
    next => exact .refl s
  | shiftOut => cases h; exact ⟨rfl, by rw [pixelClock_of_inactive hs.framer]; exact .refl s⟩
  | cacheEvict a =>
    cases h
    exact ⟨rfl, s.pll, _, _, s.gaps, writeBack_eq a.toNat s, fun _ => rfl⟩
  | dmaBeat c =>
    have hstay : beatTurn C c .empty s = .next (.empty, s) := by
      cases c <;> simp [beatTurn, OpenBeats.chan, OpenBeats.empty, hs.beatEnabled]
    simp only [Machine.takeTurn, hstay, ite_self] at h
    cases h
    exact ⟨rfl, .refl s⟩
  | reset => cases h

theorem Dormant.takeTurns {C : Config} {own : Option Channel} (ts : List Turn) :
    ∀ {s : State} {r : OpenBeats × State}, Dormant s → takeTurns C own ts .empty s = .next r →
      r.1 = .empty ∧ DormantStep s r.2 := by
  induction ts with
  | nil => intro s r _ h; cases h; exact ⟨rfl, .refl s⟩
  | cons u ts ih =>
    intro s r hs h
    obtain ⟨⟨b, s1⟩, hfirst, hrest⟩ := andThen_eq_next h
    obtain ⟨rfl, hstep⟩ := hs.takeTurn hfirst
    obtain ⟨hempty, hsteps⟩ := ih (hstep.dormant hs) hrest
    exact ⟨hempty, hstep.trans hsteps⟩

/-- Whatever the schedule does in a gap while the block is dormant, only PLL and CACHE act. -/
theorem Dormant.gap {C : Config} {s t : State} (hs : Dormant s) (h : gap C s = .next t) : DormantStep s t := by
  obtain ⟨⟨b, s1⟩, hturns, hclose⟩ := andThen_eq_next h
  simp only [gapTurns] at hturns
  split at hturns
  · cases hturns; cases hclose; exact .refl s
  · rename_i ts rest hschedule
    have hrest : Dormant { s with gaps := rest } := hs.congr rfl rfl rfl rfl
    obtain ⟨rfl, hsteps⟩ := hrest.takeTurns ts hturns
    cases hclose
    exact DormantStep.trans ⟨s.pll, s.mem, s.cache, rest, rfl, fun _ => rfl⟩ hsteps

end Sys2Proof.Machine
end

section
/-! END (spec/45_host_interface.md R223): with nothing interposed, and for every schedule, where the agents are dormant
from its DMA_DISABLE on. -/

namespace Sys2Proof.Machine

/-! ## The control registers that END clears flag by flag -/

/-- A register of which only bit 0 is used is 0 once that bit is cleared. -/
theorem setFlag_zero_of_reserved {r : Word} (hr : r &&& ~~~(0x1 : Word) = 0) : setFlag r 0 false = 0 := hr

/-- A register of which only bits 0 and 1 are used is 0 once both are cleared. -/
theorem setFlag_zero_one_of_reserved {r : Word} (hr : r &&& ~~~(0x3 : Word) = 0) :
    setFlag (setFlag r 0 false) 1 false = 0 := by
  show r &&& ~~~(flagMask 0) &&& ~~~(flagMask 1) = 0
  rw [BitVec.and_assoc]
  exact hr

theorem disarm_erq (s : State) (c : Channel) : ((disarm s).chan c).erq = false := by
  cases c <;> exact getFlag_setFlag_same _ 0 false (by decide)

theorem disarm_frmActive (s : State) : (disarm s).frmActive = false :=
  (getFlag_setFlag_ne _ 1 0 false (by decide) (by decide)).trans (getFlag_setFlag_same _ 0 false (by decide))

theorem fbFree_disarmed_of_dormant {s : State} (hs : Dormant s) : fbFree s = .next (release s) :=
  fbFree_of_disarmed (hs.channels .primary) (hs.channels .secondary)

/-! ## END with nothing interposed -/

theorem exec_endMode_of_idle {s : State} (hidle : s.idle = true) : exec .endMode s = .next s := if_pos hidle

/-- The six sub-steps of END (R223). -/
def endSteps : List (State → Flow State) :=
  [assign stopTimer, assign disarm, assign pllOff, fun s => asPart (fbFree s), assign clearRegisters, assign enterIdle]

theorem exec_endMode_of_busy {s : State} (hbusy : s.idle = false) :
    exec .endMode s = settle (inOrder Config.chip endSteps s) :=
  if_neg (Bool.eq_false_iff.1 hbusy)

/-- What END leaves of `s`, with nothing interposed. -/
def State.ended (s : State) : State := enterIdle (clearRegisters (release (pllOff (disarm (stopTimer s)))))

/-- A sub-step with nothing interposed after it. -/
theorem inOrder_cons_of_quiet {C : Config} {f : State → Flow State} {fs : List (State → Flow State)} {s u : State}
    (hf : f s = .next u) (hquiet : u.gaps = []) : inOrder C (f :: fs) s = inOrder C fs u := by
  rw [inOrder_cons, hf, andThen_next, gap_of_quiet hquiet, andThen_next]

theorem inOrder_endSteps_quiet (C : Config) {s : State} (hquiet : s.quiet) :
    inOrder C endSteps s = .next s.ended := by
  have hfree : fbFree (pllOff (disarm (stopTimer s))) = .next (release (pllOff (disarm (stopTimer s)))) :=
    fbFree_of_disarmed (disarm_erq (stopTimer s) .primary) (disarm_erq (stopTimer s) .secondary)
  calc inOrder C endSteps s
      = inOrder C (endSteps.drop 3) (pllOff (disarm (stopTimer s))) := by
        refine inOrder_assigns_of_quiet [stopTimer, disarm, pllOff] (endSteps.drop 3) s (fun u hu x => ?_) hquiet
        simp only [List.mem_cons, List.not_mem_nil, or_false] at hu
        obtain rfl | rfl | rfl := hu <;> rfl
    _ = inOrder C (endSteps.drop 4) (release (pllOff (disarm (stopTimer s)))) :=
        inOrder_cons_of_quiet (congrArg asPart hfree) hquiet
    _ = .next s.ended := by
        refine inOrder_assigns_of_quiet [clearRegisters, enterIdle] [] _ (fun u hu x => ?_) hquiet
        simp only [List.mem_cons, List.not_mem_nil, or_false] at hu
        obtain rfl | rfl := hu <;> rfl

/-- END's six writes leave the reset values: the framer's and the buffer's registers are cleared flag by flag, and have
no other bits. -/
theorem State.ended_eq {s : State} (hs : reservedZero s) :
    s.ended =
      { s with
        stateReg := 0, line := 0, flags := 0, mode := VideoMode.zero, shift := 0, pll := Pll.off
        tmr := LineTimer.stopped, dma0 := Descriptor.zero, dma1 := Descriptor.zero, fb := FrameBuffer.none
        frm := Framer.idle, stream0 := [], stream1 := [] } := by
  obtain ⟨-, -, -, -, -, -, -, hfb, hfrm, -⟩ := hs
  simp only [State.ended, enterIdle, clearRegisters, release, pllOff, disarm, stopTimer, Framer.setActive,
    Framer.setCorrupt, setFlag_zero_of_reserved hfb, setFlag_zero_one_of_reserved hfrm, Framer.idle, FrameBuffer.none]

/-- Settles O50: END with nothing interposed is its six writes in a row. -/
theorem endResult : Obligations.EndResult := by
  unfold Obligations.EndResult
  refine fun s => ⟨exec_endMode_of_idle, fun hbusy hquiet hreserved => ?_⟩
  rw [exec_endMode_of_busy hbusy, inOrder_endSteps_quiet _ hquiet, settle_next, State.ended_eq hreserved]

/-! ## END for every schedule (R283) -/

/-- A sub-step that goes on to `u`, and its gap, where the sequence goes on. -/
theorem inOrder_cons_eq_next {C : Config} {f : State → Flow State} {fs : List (State → Flow State)} {s u t : State}
    (hf : f s = .next u) (h : inOrder C (f :: fs) s = .next t) :
    ∃ v, gap C u = .next v ∧ inOrder C fs v = .next t := by
  rw [inOrder_cons, hf, andThen_next] at h
  exact andThen_eq_next h

/-- While the block is dormant, a sub-step is followed by PLL and CACHE alone. -/
theorem Dormant.inOrder_cons {C : Config} {f : State → Flow State} {fs : List (State → Flow State)} {s u t : State}
    (hu : Dormant u) (hf : f s = .next u) (h : inOrder C (f :: fs) s = .next t) :
    ∃ pll mem cache gaps, inOrder C fs (u.afterGap pll mem cache gaps) = .next t := by
  obtain ⟨v, hgap, hrest⟩ := inOrder_cons_eq_next hf h
  obtain ⟨pll, mem, cache, gaps, rfl, -⟩ := hu.gap hgap
  exact ⟨pll, mem, cache, gaps, hrest⟩

/-- With the PLL off as well, by CACHE alone. -/
theorem Dormant.inOrder_cons_of_off {C : Config} {f : State → Flow State} {fs : List (State → Flow State)}
    {s u t : State} (hu : Dormant u) (hoff : u.pll = Pll.off) (hf : f s = .next u)
    (h : inOrder C (f :: fs) s = .next t) :
    ∃ mem cache gaps, inOrder C fs (u.afterGap Pll.off mem cache gaps) = .next t := by
  obtain ⟨v, hgap, hrest⟩ := inOrder_cons_eq_next hf h
  obtain ⟨pll, mem, cache, gaps, rfl, hpll⟩ := hu.gap hgap
  obtain rfl : pll = Pll.off := (hpll (pllEnabled_of_off hoff)).trans hoff
  exact ⟨mem, cache, gaps, hrest⟩

theorem pixelClock_tmr (C : Config) (s : State) : (pixelClock C s).tmr = s.tmr := by
  simp only [pixelClock]
  split
  · split
    · rfl
    · split
      · rfl
      · split <;> rfl
  · rfl

/-- No agent starts or stops the timer (R29, R191). -/
theorem tmrRun_rel (C : Config) : AgentRel C (fun s t => t.tmrRun = s.tmrRun) where
  refl := fun _ => rfl
  trans := fun _ _ _ hst htu => htu.trans hst
  timer := fun s => by
    obtain ⟨-, h⟩ | ⟨-, h⟩ := timerClock_cases s <;> rw [h]
    exact LineTimer.clocked_run s.tmr
  lock := fun s => by simp only [lockPll]; split <;> rfl
  pixel := fun s => by rw [State.tmrRun, pixelClock_tmr]; rfl
  write := fun a s => by rw [writeBack_eq]; rfl
  draw := fun _ _ => rfl
  finish := fun c bytes s => by cases c <;> rfl
  schedule := fun _ _ _ _ => rfl

theorem gap_tmrRun {C : Config} {s t : State} (h : gap C s = .next t) : t.tmrRun = s.tmrRun := by
  have hkeeps := (tmrRun_rel C).gap s
  rw [h] at hkeeps
  exact hkeeps

theorem gap_reservedZero {C : Config} {s t : State} (h : gap C s = .next t) (hs : reservedZero s) : reservedZero t := by
  have hkeeps := (reservedZero_rel C).gap s
  rw [h] at hkeeps
  exact hkeeps hs

theorem stopTimer_tmrRun (s : State) : (stopTimer s).tmrRun = false := getFlag_setFlag_same _ 0 false (by decide)

/-- Once the timer is stopped, DMA_DISABLE makes the block dormant. -/
theorem disarm_dormant {s : State} (hstopped : s.tmrRun = false) : Dormant (disarm s) :=
  ⟨hstopped, disarm_frmActive s, disarm_erq s⟩

theorem Dormant.clearRegisters {s : State} (h : Dormant s) : Dormant (clearRegisters s) where
  timer := show getFlag LineTimer.stopped.ctrl 0 = false from rfl
  framer := h.framer
  channels := fun c => by cases c <;> exact (show Descriptor.zero.erq = false from rfl)

/-- What END's first three steps leave: the block dormant and the PLL off, with nothing more to shift out. -/
structure PoweredDown (s : State) : Prop where
  dormant : Dormant s
  frmCtrl : s.frm.ctrl = 0
  color : s.frm.color = 0
  stream0 : s.stream0 = []
  stream1 : s.stream1 = []
  pll : s.pll = Pll.off

/-- Steps 1 to 3: before its DMA_DISABLE the agents may act, but no longer start the timer; after it only PLL and CACHE
do, and from step 3 on not PLL. -/
theorem inOrder_endSteps_poweredDown {C : Config} {s t : State} (hreserved : reservedZero s)
    (h : inOrder C endSteps s = .next t) :
    ∃ s3, PoweredDown s3 ∧ reservedZero s3 ∧ inOrder C (endSteps.drop 3) s3 = .next t := by
  obtain ⟨s1, hgap, h⟩ := inOrder_cons_eq_next rfl h
  have hstopped : s1.tmrRun = false := (gap_tmrRun hgap).trans (stopTimer_tmrRun s)
  have hreserved1 : reservedZero s1 :=
    gap_reservedZero hgap ((RegisterWrite.stopTimer (C := C) s).reservedZero hreserved)
  obtain ⟨pll, mem1, cache1, gaps1, h⟩ := (disarm_dormant hstopped).inOrder_cons rfl h
  have hoff : Dormant (pllOff ((disarm s1).afterGap pll mem1 cache1 gaps1)) :=
    (disarm_dormant hstopped).congr rfl rfl rfl rfl
  obtain ⟨mem2, cache2, gaps2, h⟩ := hoff.inOrder_cons_of_off rfl rfl h
  have hreserved2 : reservedZero (pllOff (disarm s1)) :=
    (RegisterWrite.pllOff (C := C) _).reservedZero ((RegisterWrite.disarm (C := C) s1).reservedZero hreserved1)
  obtain ⟨-, -, -, -, -, -, -, -, hfrm, -⟩ := hreserved1
  refine ⟨_, ?_, ?_, h⟩
  · exact ⟨hoff.congr rfl rfl rfl rfl, setFlag_zero_one_of_reserved hfrm, rfl, rfl, rfl, rfl⟩
  · exact hreserved2

/-- Steps 4 to 6: the remaining registers are cleared, and stay so. -/
theorem PoweredDown.registersAtReset {C : Config} {s t : State} (hs : PoweredDown s) (hreserved : reservedZero s)
    (h : inOrder C (endSteps.drop 3) s = .next t) : RegistersAtReset t := by
  have hreleased : Dormant (release s) := hs.dormant.congr rfl rfl rfl rfl
  obtain ⟨mem1, cache1, gaps1, h⟩ :=
    hreleased.inOrder_cons_of_off hs.pll (congrArg asPart (fbFree_disarmed_of_dormant hs.dormant)) h
  have hcleared : Dormant (clearRegisters ((release s).afterGap Pll.off mem1 cache1 gaps1)) :=
    hreleased.clearRegisters.congr rfl rfl rfl rfl
  obtain ⟨mem2, cache2, gaps2, h⟩ := hcleared.inOrder_cons_of_off rfl rfl h
  obtain ⟨mem3, cache3, gaps3, h⟩ :=
    Dormant.inOrder_cons_of_off (u := enterIdle (State.afterGap _ Pll.off mem2 cache2 gaps2))
      (hcleared.congr rfl rfl rfl rfl) rfl rfl h
  cases h
  obtain ⟨-, -, -, -, -, -, -, hfb, -, -⟩ := hreserved
  exact
    { stateReg := rfl, line := rfl, flags := rfl, mode := rfl, shift := rfl, pll := rfl, tmr := rfl, dma0 := rfl
      dma1 := rfl
      fb := FrameBuffer.ext rfl rfl (setFlag_zero_of_reserved hfb)
      frm := Framer.ext rfl hs.frmCtrl hs.color
      stream0 := hs.stream0
      stream1 := hs.stream1 }

/-- Settles O51: a RESET in a gap leaves the reset values too. -/
theorem endLeavesResetValues : Obligations.EndLeavesResetValues := by
  unfold Obligations.EndLeavesResetValues
  intro s t hreserved hbusy h
  refine ⟨?registers, fun hreset => ⟨?result0, ?result1⟩⟩
  case result0 => exact exec_keeps_of_noReset (result0_rel (by simp)) hreset h
  case result1 => exact exec_keeps_of_noReset (result1_rel (by simp)) hreset h
  case registers =>
    rw [exec_endMode_of_busy hbusy] at h
    have hperforms := (shown_writeRel Config.chip (writeClasses .endMode)).endSteps (by simp) (by simp) (by simp)
      (by simp) s
    obtain hend | ⟨-, u, -, rfl⟩ := hperforms.settle_eq_next h
    · obtain ⟨s3, hdown, hreserved3, hrest⟩ := inOrder_endSteps_poweredDown hreserved hend
      exact hdown.registersAtReset hreserved3 hrest
    · exact registersAtReset_resetEvent u

end Sys2Proof.Machine
end

section
/-! BEGIN with nothing interposed (spec/45_host_interface.md R221, R222, R250): the state after each of its parts, the
code of the first step that fails, and what a success leaves. -/

namespace Sys2Proof.Machine

/-! ## The mode (R221 step 1) -/

section
variable {C : Config} {mode : Byte} {m : ResolvedMode} {s : State}

theorem beginMode_of_unresolved (hidle : s.idle = true) (hnone : resolveMode C mode = none) :
    beginMode C mode s = .next (reportFailure codeModeUnsupported s) := by
  simp only [beginMode, hidle, hnone, Bool.not_true, Bool.false_eq_true, if_false]

theorem beginMode_of_large_target (hidle : s.idle = true) (hm : resolveMode C mode = some m)
    (htarget : ¬ clockTarget C m < 2 ^ 32) : beginMode C mode s = .next (reportFailure codeModeUnsupported s) := by
  simp only [beginMode, hidle, hm, htarget, Bool.not_true, Bool.false_eq_true, if_false]

theorem beginMode_of_resolved (hidle : s.idle = true) (hm : resolveMode C mode = some m)
    (htarget : clockTarget C m < 2 ^ 32) : beginMode C mode s = settle (beginWith C m s) := by
  simp only [beginMode, hidle, hm, htarget, Bool.not_true, Bool.false_eq_true, if_false, if_true]

end

/-! ## The clock (R221 steps 2 and 3) -/

/-- After the mode is loaded and the clock programmed. -/
def State.clocked (C : Config) (m : ResolvedMode) (s : State) : State :=
  { s with
    mode := m.registers C, shift := BitVec.ofNat 32 m.shift0
    pll :=
      { div := BitVec.ofNat 32 (clkSearch C (clockTarget C m)).1
        num := BitVec.ofNat 32 (clkSearch C (clockTarget C m)).2
        denom := BitVec.ofNat 32 C.denom0, ctrl := setFlag (setFlag s.pll.ctrl 31 (C.lockOk s.draws)) 0 true }
    draws := s.draws + 1 }

theorem beginWith_quiet {C : Config} {m : ResolvedMode} {s : State} (hquiet : s.quiet) :
    beginWith C m s =
      if C.lockOk s.draws then beginBuffer C (s.clocked C m) else failBegin C codeClockLockTimeout (s.clocked C m) := by
  have hloaded : (loadMode C m s).gaps = [] := hquiet
  have hclocked : (s.clocked C m).gaps = [] := hquiet
  have hprogram : programClock C (clockTarget C m) (loadMode C m s) = .next (C.lockOk s.draws, s.clocked C m) :=
    programClock_quiet C (clockTarget C m) hloaded
  rw [beginWith, gap_of_quiet hloaded, andThen_next, hprogram, andThen_next, gap_of_quiet hclocked, andThen_next]
  split <;> rfl

/-- The allocation that BEGIN asks for is that of the mode's own numbers. -/
theorem fbBytes_clocked {C : Config} {mode : Byte} {m : ResolvedMode} (hm : resolveMode C mode = some m) (s : State) :
    fbBytes C (s.clocked C m) = m.stride * m.height + C.fbPad := by
  have hold := (resolvedLaws_of_resolveMode hm).registersHold
  show (m.registers C).stride.toNat * (m.registers C).height.toNat + C.fbPad = _
  rw [hold.stride, hold.height]

/-! ## A failure (R222) -/

/-- After a rollback and the report of `code`. -/
def State.rolledBack (code : Word) (s : State) : State :=
  reportFailure code (clearDescriptors (clearMode (pllOff (disarm s))))

theorem failBegin_quiet {C : Config} {code : Word} {s : State} (hquiet : s.quiet) (hvalid : s.fbValid = false) :
    failBegin C code s = .next (s.rolledBack code) := by
  have hnoBuffer : (pllOff (disarm s)).fbValid = false := hvalid
  rw [failBegin]
  refine (inOrder_assigns_of_quiet [disarm, pllOff] _ s (fun u hu x => ?_) hquiet).trans ?_
  · simp only [List.mem_cons, List.not_mem_nil, or_false] at hu
    obtain rfl | rfl := hu <;> rfl
  refine (inOrder_cons_of_quiet (u := pllOff (disarm s)) (if_neg (Bool.eq_false_iff.1 hnoBuffer)) hquiet).trans ?_
  refine inOrder_assigns_of_quiet [clearMode, clearDescriptors, reportFailure code] [] _ (fun u hu x => ?_) hquiet
  simp only [List.mem_cons, List.not_mem_nil, or_false] at hu
  obtain rfl | rfl | rfl := hu <;> rfl

/-- The rollback forgets the mode and the clock program. -/
theorem rolledBack_clocked (C : Config) (code : Word) (m : ResolvedMode) (s : State) (draws : Nat) :
    ({ s.clocked C m with draws := draws }).rolledBack code = ({ s with draws := draws }).rolledBack code := by
  simp only [State.rolledBack, State.clocked, reportFailure, report, clearDescriptors, clearMode, pllOff, disarm]

/-- R166: with both descriptors at 0, the framer idle and nothing to shift out DMA_DISABLE changes nothing. -/
theorem disarm_of_idle {s : State} (hdma0 : s.dma0 = Descriptor.zero) (hdma1 : s.dma1 = Descriptor.zero)
    (hfrm : s.frm = Framer.idle) (hstream0 : s.stream0 = []) (hstream1 : s.stream1 = []) : disarm s = s := by
  refine State.ext rfl rfl rfl rfl rfl rfl rfl rfl rfl ?dma0 ?dma1 rfl ?frm hstream0.symm hstream1.symm rfl rfl rfl rfl
    rfl rfl rfl rfl rfl rfl
  case dma0 => show s.dma0.setErq false = s.dma0; rw [hdma0]; rfl
  case dma1 => show s.dma1.setErq false = s.dma1; rw [hdma1]; rfl
  case frm => show { (s.frm.setActive false).setCorrupt false with color := 0 } = s.frm; rw [hfrm]; rfl

theorem rolledBack_of_registersAtReset {s : State} (hs : RegistersAtReset s) (code : Word) (draws : Nat) :
    ({ s with draws := draws }).rolledBack code = { s with result0 := code, result1 := 0, draws := draws } := by
  have hdisarm : disarm { s with draws := draws } = { s with draws := draws } :=
    disarm_of_idle hs.dma0 hs.dma1 hs.frm hs.stream0 hs.stream1
  simp only [State.rolledBack, hdisarm, reportFailure, report, clearDescriptors, clearMode, pllOff, ← hs.mode,
    ← hs.shift, ← hs.pll]
  exact State.ext rfl rfl rfl rfl rfl rfl rfl rfl rfl hs.dma0.symm hs.dma1.symm rfl rfl rfl rfl rfl rfl rfl rfl rfl rfl
    rfl rfl rfl rfl

/-! ## The buffer, the descriptors and the timer (R221 steps 4 to 8) -/

/-- After a grant of the `size` bytes at `a`. -/
def State.granted (a size : Nat) (s : State) : State :=
  { s with
    fb := { base := BitVec.ofNat 32 a, size := BitVec.ofNat 32 size, ctrl := setFlag s.fb.ctrl 0 true }
    mem := memEraseRange s.mem a size, epoch := s.epoch + 1, draws := s.draws + 1 }

/-- After DMA_CONFIGURE (R163). -/
def State.configured (s : State) : State :=
  { s with
    dma0 :=
      { saddr := s.fb.base, daddr := 0, beat := s.mode.gran
        count := BitVec.ofNat 32 (s.mode.stride.toNat / s.mode.gran.toNat)
        rem := BitVec.ofNat 32 (s.mode.stride.toNat / s.mode.gran.toNat)
        slast := 0 - s.mode.stride, dcsr := (((s.dma0.setDreq true).setErq false).setDone false).dcsr }
    dma1 :=
      { saddr := s.fb.base + s.shift, daddr := 1, beat := s.secondaryBeat
        count := s.secondaryCount, rem := s.secondaryCount
        slast := 0 - s.mode.stride, dcsr := (((s.dma1.setDreq true).setErq false).setDone false).dcsr }
    flags := setFlag s.flags unalignedBit (!s.shiftAligned) }

theorem beginBuffer_of_no_grant {C : Config} {s : State} (hquiet : s.quiet) (hvalid : s.fbValid = false)
    (hdraw : C.allocDraw s.draws (fbBytes C s) = none) :
    beginBuffer C s = .next (({ s with draws := s.draws + 1 }).rolledBack codeAllocationFailed) := by
  have hvalid' : ({ s with draws := s.draws + 1 } : State).fbValid = false := hvalid
  have hquiet' : ({ s with draws := s.draws + 1 } : State).gaps = [] := hquiet
  simp only [beginBuffer, hvalid, allocate_of_no_grant hdraw, hvalid', Bool.false_eq_true, if_false]
  rw [gap_of_quiet hquiet', andThen_next, failBegin_quiet hquiet' hvalid']

theorem granted_fbValid (a size : Nat) (s : State) : (s.granted a size).fbValid = true :=
  getFlag_setFlag_same _ 0 true (by decide)

theorem beginBuffer_of_grant {C : Config} {s : State} {a : Nat} (hquiet : s.quiet) (hvalid : s.fbValid = false)
    (hdraw : C.allocDraw s.draws (fbBytes C s) = some a) :
    beginBuffer C s = finishBegin C (s.granted a (fbBytes C s)) := by
  have hgranted : allocate C s = s.granted a (fbBytes C s) := allocate_of_grant hdraw
  have hquiet' : (s.granted a (fbBytes C s)).gaps = [] := hquiet
  simp only [beginBuffer, hvalid, hgranted, granted_fbValid, Bool.false_eq_true, if_false, if_true]
  rw [gap_of_quiet hquiet', andThen_next]

/-- Steps 5 to 8 in a buffer that does not wrap. -/
theorem finishBegin_quiet {C : Config} {s : State} (hquiet : s.quiet) (hvalid : s.fbValid = true)
    (hfits : s.fb.base.toNat + s.fb.size.toNat ≤ 2 ^ 32) (hgranular : s.granular = true) :
    ∃ cache, finishBegin C s = .next (report codeOk (startTimer C ({ s with cache := cache } : State).configured))
      ∧ ∀ x, memGet cache x =
          if s.fb.base.toNat ≤ x ∧ x < s.fb.base.toNat + s.fb.size.toNat then some 0 else memGet s.cache x := by
  have hin : ∀ k, k < s.fb.size.toNat → s.inFrameBuffer (s.fb.base.toNat + 0 + k) = true := fun k hk => by
    simp only [State.inFrameBuffer, hvalid, Bool.true_and, decide_eq_true_eq]
    omega
  obtain ⟨t, hfill, hframe, hcache⟩ :=
    storeRun_quiet C (fun _ => 0) s.fb.base.toNat s.fb.size.toNat 0 s hquiet hin
  refine ⟨t.cache, ?_, hcache⟩
  have hquiet' : t.gaps = [] := by rw [hframe]; exact hquiet
  have hgranular' : t.granular = true := by rw [hframe]; exact hgranular
  rw [← hframe, finishBegin]
  refine (inOrder_cons_of_quiet hfill hquiet').trans ?_
  refine (inOrder_cons_of_quiet (u := t.configured) (configure_quiet C hgranular' hquiet') hquiet').trans ?_
  refine inOrder_assigns_of_quiet [startTimer C, report codeOk] [] t.configured (fun u hu x => ?_) hquiet'
  simp only [List.mem_cons, List.not_mem_nil, or_false] at hu
  obtain rfl | rfl := hu <;> rfl

/-- After a successful BEGIN of `m` with the buffer at `a`. -/
def State.begun (C : Config) (m : ResolvedMode) (a : Nat) (cache : Memory) (s : State) : State :=
  report codeOk (startTimer C
    ({ (s.clocked C m).granted a (m.stride * m.height + C.fbPad) with cache := cache } : State).configured)

/-- The registers of a resolved mode have a granular stride, whatever the table holds. -/
theorem registers_granular {C : Config} {mode : Byte} {m : ResolvedMode} (hm : resolveMode C mode = some m) {s : State}
    (hmode : s.mode = m.registers C) : s.granular = true := by
  have hlaws := resolvedLaws_of_resolveMode hm
  have hold := hlaws.registersHold
  have hgran : m.gran ≠ 0 := by rw [hlaws.gran]; split <;> decide
  simp [State.granular, hmode, hold.gran, hold.stride, hlaws.granular, hgran]

/-- A grant that obeys its law stands in the buffer's registers as it is. -/
theorem granted_fits {C : Config} {mode : Byte} {m : ResolvedMode} (hm : resolveMode C mode = some m) {draw a : Nat}
    (hgrant : C.allocDraw draw (m.stride * m.height + C.fbPad) = some a) :
    (BitVec.ofNat 32 a).toNat = a
      ∧ (BitVec.ofNat 32 (m.stride * m.height + C.fbPad)).toNat = m.stride * m.height + C.fbPad
      ∧ a + (m.stride * m.height + C.fbPad) ≤ 2 ^ 32 := by
  have hlaws := resolvedLaws_of_resolveMode hm
  obtain ⟨-, hfits⟩ := Config.allocDraw_law hgrant
  have hpos : 0 < m.stride * m.height :=
    Nat.mul_pos (Nat.lt_of_lt_of_le hlaws.width_pos hlaws.width_le) hlaws.height_pos
  exact ⟨toNat_ofNat_of_lt (by omega), toNat_ofNat_of_lt hlaws.buffer, hfits⟩

/-- R221: a mode that resolves, a clock that locks and a grant make BEGIN succeed. -/
theorem beginMode_quiet_success {C : Config} {mode : Byte} {m : ResolvedMode} {a : Nat} {s : State}
    (hidle : s.idle = true) (hvalid : s.fbValid = false) (hquiet : s.quiet) (hm : resolveMode C mode = some m)
    (htarget : clockTarget C m < 2 ^ 32) (hlock : C.lockOk s.draws = true)
    (hgrant : C.allocDraw (s.draws + 1) (m.stride * m.height + C.fbPad) = some a) :
    ∃ cache, beginMode C mode s = .next (s.begun C m a cache)
      ∧ ∀ x, memGet cache x =
          if a ≤ x ∧ x < a + (m.stride * m.height + C.fbPad) then some 0 else memGet s.cache x := by
  obtain ⟨hbase, hsize, hfits⟩ := granted_fits hm hgrant
  have hbytes := fbBytes_clocked hm s
  have hdraw : C.allocDraw (s.clocked C m).draws (fbBytes C (s.clocked C m)) = some a := by rw [hbytes]; exact hgrant
  obtain ⟨cache, hfinish, hcache⟩ :=
    finishBegin_quiet (C := C) (s := (s.clocked C m).granted a (m.stride * m.height + C.fbPad)) hquiet
      (granted_fbValid a _ _) (by show (BitVec.ofNat 32 a).toNat + (BitVec.ofNat 32 _).toNat ≤ 2 ^ 32; omega)
      (registers_granular hm rfl)
  change ∀ x, memGet cache x =
    if (BitVec.ofNat 32 a).toNat ≤ x
        ∧ x < (BitVec.ofNat 32 a).toNat + (BitVec.ofNat 32 (m.stride * m.height + C.fbPad)).toNat then some 0
    else memGet s.cache x at hcache
  rw [hbase, hsize] at hcache
  refine ⟨cache, ?_, hcache⟩
  rw [beginMode_of_resolved hidle hm htarget, beginWith_quiet hquiet, if_pos hlock,
    beginBuffer_of_grant (s := s.clocked C m) hquiet hvalid hdraw, hbytes, hfinish, settle_next]
  rfl

/-! ## The result code (R250) -/

section
variable {C : Config} {mode : Byte} {m : ResolvedMode} {s : State}

theorem beginCode_of_unresolved (hnone : resolveMode C mode = none) : beginCode C mode s = codeModeUnsupported := by
  rw [beginCode, hnone]

theorem beginCode_of_large_target (hm : resolveMode C mode = some m) (htarget : ¬ clockTarget C m < 2 ^ 32) :
    beginCode C mode s = codeModeUnsupported := by
  simp only [beginCode, hm, Nat.le_of_not_lt htarget, if_true]

theorem beginCode_of_no_lock (hm : resolveMode C mode = some m) (htarget : clockTarget C m < 2 ^ 32)
    (hlock : C.lockOk s.draws = false) : beginCode C mode s = codeClockLockTimeout := by
  simp only [beginCode, hm, Nat.not_le_of_lt htarget, hlock, Bool.false_eq_true, if_false]

theorem beginCode_of_no_grant (hm : resolveMode C mode = some m) (htarget : clockTarget C m < 2 ^ 32)
    (hlock : C.lockOk s.draws = true)
    (hgrant : C.allocDraw (s.draws + 1) (m.stride * m.height + C.fbPad) = none) :
    beginCode C mode s = codeAllocationFailed := by
  simp only [beginCode, hm, Nat.not_le_of_lt htarget, hlock, hgrant, if_false, if_true]

theorem beginCode_of_grant {a : Nat} (hm : resolveMode C mode = some m) (htarget : clockTarget C m < 2 ^ 32)
    (hlock : C.lockOk s.draws = true)
    (hgrant : C.allocDraw (s.draws + 1) (m.stride * m.height + C.fbPad) = some a) : beginCode C mode s = codeOk := by
  simp only [beginCode, hm, Nat.not_le_of_lt htarget, hlock, hgrant, if_false, if_true]

end

/-- How a BEGIN with nothing interposed ends: its mode is refused, or it is rolled back, or it succeeds. -/
inductive BeginEnds (C : Config) (mode : Byte) (s : State) : Prop where
  | refused (hcode : beginCode C mode s = codeModeUnsupported)
      (hend : beginMode C mode s = .next (reportFailure codeModeUnsupported s))
  | failed (code : Word) (draws : Nat) (hcode : beginCode C mode s = code)
      (hlate : code = codeClockLockTimeout ∨ code = codeAllocationFailed)
      (hend : beginMode C mode s = .next (({ s with draws := draws }).rolledBack code))
  | succeeded (m : ResolvedMode) (a : Nat) (cache : Memory) (hcode : beginCode C mode s = codeOk)
      (hend : beginMode C mode s = .next (s.begun C m a cache))

theorem beginEnds {C : Config} {mode : Byte} {s : State} (hidle : s.idle = true) (hvalid : s.fbValid = false)
    (hquiet : s.quiet) : BeginEnds C mode s := by
  cases hm : resolveMode C mode with
  | none => exact .refused (beginCode_of_unresolved hm) (beginMode_of_unresolved hidle hm)
  | some m =>
    by_cases htarget : clockTarget C m < 2 ^ 32
    · have hbegin := (beginMode_of_resolved hidle hm htarget).trans (congrArg settle (beginWith_quiet hquiet))
      cases hlock : C.lockOk s.draws with
      | false =>
        refine .failed codeClockLockTimeout (s.draws + 1) (beginCode_of_no_lock hm htarget hlock) (.inl rfl) ?_
        rw [hbegin, hlock]
        show settle (failBegin C codeClockLockTimeout (s.clocked C m)) = _
        rw [failBegin_quiet (s := s.clocked C m) hquiet hvalid, settle_next]
        exact congrArg Host.Outcome.next (rolledBack_clocked C codeClockLockTimeout m s (s.draws + 1))
      | true =>
        cases hgrant : C.allocDraw (s.draws + 1) (m.stride * m.height + C.fbPad) with
        | none =>
          have hdraw : C.allocDraw (s.clocked C m).draws (fbBytes C (s.clocked C m)) = none := by
            rw [fbBytes_clocked hm]; exact hgrant
          refine .failed codeAllocationFailed (s.draws + 2) (beginCode_of_no_grant hm htarget hlock hgrant) (.inr rfl) ?_
          rw [hbegin, hlock]
          show settle (beginBuffer C (s.clocked C m)) = _
          rw [beginBuffer_of_no_grant (s := s.clocked C m) hquiet hvalid hdraw, settle_next]
          exact congrArg Host.Outcome.next (rolledBack_clocked C codeAllocationFailed m s (s.draws + 2))
        | some a =>
          obtain ⟨cache, hend, -⟩ := beginMode_quiet_success hidle hvalid hquiet hm htarget hlock hgrant
          exact .succeeded m a cache (beginCode_of_grant hm htarget hlock hgrant) hend
    · exact .refused (beginCode_of_large_target hm htarget) (beginMode_of_large_target hidle hm htarget)

/-- Settles O47: only a success writes STATE, and only a failure RESULT1. -/
theorem beginCompletes : Obligations.BeginCompletes := by
  unfold Obligations.BeginCompletes
  intro mode s hidle hvalid hquiet
  have hstopped : s.running = false := not_running_of_idle hidle
  cases beginEnds (C := Config.chip) (mode := mode) hidle hvalid hquiet with
  | refused hcode hend =>
    have hrunning : (reportFailure codeModeUnsupported s).running = false := hstopped
    refine ⟨_, hend, hcode.symm, ?_, ?_, fun _ => rfl⟩
    · rw [hcode]; rfl
    · rw [hcode, hrunning]; decide
  | failed code draws hcode hlate hend =>
    have hrunning : (({ s with draws := draws } : State).rolledBack code).running = false := hstopped
    refine ⟨_, hend, hcode.symm, ?_, ?_, fun hunsupported => ?_⟩
    · obtain rfl | rfl := hlate <;> rw [hcode] <;> rfl
    · rw [hcode, hrunning]; obtain rfl | rfl := hlate <;> decide
    · rw [hcode] at hunsupported; obtain rfl | rfl := hlate <;> exact absurd hunsupported (by decide)
  | succeeded m a cache hcode hend =>
    refine ⟨_, hend, hcode.symm, ?_, ?_, fun hunsupported => ?_⟩
    · rw [hcode]; rfl
    · simp only [hcode, iff_true]; exact running_of_stateReg_one rfl
    · rw [hcode] at hunsupported; exact absurd hunsupported (by decide)

end Sys2Proof.Machine
end

section
/-! What a successful and a failed BEGIN leave of the reset values (spec/45_host_interface.md R221, R222), with nothing
interposed. -/

namespace Sys2Proof.Machine

/-! ## A success (R221) -/

theorem packMflags_eq (ld combine : Bool) :
    packMflags ld combine = (if ld then 1 else 0) ||| (if combine then 2 else 0) := by
  cases ld <;> cases combine <;> rfl

/-- R167, R221: UNALIGNED is the one flag that DMA_CONFIGURE and the start of the timer leave of cleared FLAGS. -/
theorem setFlags_started (aligned : Bool) :
    setFlag (setFlag (setFlag (setFlag 0 unalignedBit (!aligned)) frameStartBit false) vsyncBit false) irqMaskBit
        false =
      if aligned then 0 else 8 := by
  cases aligned <;> rfl

/-- Settles O48: the writes of BEGIN's steps over the reset values. -/
theorem beginSuccess : Obligations.BeginSuccess := by
  unfold Obligations.BeginSuccess
  intro C mode s m a hlegal hreset hquiet hm htarget hlock hgrant size gran stride shift lines topBlank aligned beats
    beats1
  obtain ⟨cache, hend, hcache⟩ := beginMode_quiet_success hreset.idle hreset.fbValid hquiet hm htarget hlock hgrant
  refine ⟨s.begun C m a cache, hend, fun hchip => by subst hchip; exact hend, ?_, hcache⟩
  have hlaws := resolvedLaws_of_resolveMode hm
  have hold := hlaws.registersHold
  have haligned : ((BitVec.ofNat 32 m.shift0).toNat % (m.registers C).gran.toNat == 0) = aligned := by
    have hshift : (BitVec.ofNat 32 m.shift0).toNat = m.shift0 := hlaws.shift0_held hlegal
    rw [hshift, hold.gran]
    rfl
  have hbeats : BitVec.ofNat 32 ((m.registers C).stride.toNat / (m.registers C).gran.toNat) = beats := by
    rw [hold.stride, hold.gran]
  simp only [State.begun, report, startTimer, State.configured, State.secondaryBeat, State.secondaryCount,
    State.shiftAligned, State.granted, State.clocked, haligned, hbeats, hlock, hreset.flags, hreset.pll, hreset.dma0,
    hreset.dma1, hreset.fb]
  refine State.ext rfl rfl rfl rfl ?flags ?mode rfl ?pll rfl ?dma0 ?dma1 ?fb rfl rfl rfl rfl rfl rfl rfl rfl rfl rfl rfl
    rfl rfl
  case flags => exact setFlags_started aligned
  case mode =>
    refine VideoMode.ext ?modeId rfl rfl rfl (packMflags_eq m.ld m.combine) rfl rfl rfl rfl rfl rfl rfl rfl
    exact congrArg zextByte hlaws.modeId
  case pll => exact Pll.ext rfl rfl rfl rfl
  case dma0 => exact Descriptor.ext rfl rfl rfl rfl rfl rfl rfl
  case dma1 => exact Descriptor.ext rfl rfl rfl rfl rfl rfl rfl
  case fb => exact FrameBuffer.ext rfl rfl rfl

/-! ## A failure (R222) -/

/-- O49 with nothing interposed: the rollback leaves the reset values as they were. -/
theorem beginMode_quiet_failure {C : Config} {mode : Byte} {s t : State} (hreset : RegistersAtReset s)
    (hquiet : s.quiet) (hcode : beginCode C mode s ≠ codeOk) (h : beginMode C mode s = .next t) :
    t = { s with result0 := beginCode C mode s, result1 := 0, draws := t.draws } := by
  cases beginEnds (C := C) (mode := mode) hreset.idle hreset.fbValid hquiet with
  | refused hunsupported hend =>
    rw [hend] at h
    cases h
    rw [hunsupported]
    rfl
  | failed code draws hfailed _ hend =>
    rw [hend, rolledBack_of_registersAtReset hreset] at h
    cases h
    rw [hfailed]
  | succeeded m a cache hok hend => exact absurd hok hcode

end Sys2Proof.Machine
end

section
/-! A failed BEGIN under every schedule (spec/45_host_interface.md R222, spec/60_exceptions.md R250, R283): from the
reset values the block stays dormant until BEGIN starts the timer, so its rollback finds only the mode, SHIFT and the PLL to
clear. -/

namespace Sys2Proof.Machine

/-! ## BEGIN before it allocates (R221 steps 2 to 4) -/

/-- The registers that BEGIN leaves at their reset values until it has a buffer: all but the mode's, SHIFT and the
PLL's. -/
structure Preparing (s : State) : Prop where
  stateReg : s.stateReg = 0
  line : s.line = 0
  flags : s.flags = 0
  tmr : s.tmr = LineTimer.stopped
  dma0 : s.dma0 = Descriptor.zero
  dma1 : s.dma1 = Descriptor.zero
  fb : s.fb = FrameBuffer.none
  frm : s.frm = Framer.idle
  stream0 : s.stream0 = []
  stream1 : s.stream1 = []

theorem RegistersAtReset.preparing {s : State} (h : RegistersAtReset s) : Preparing s :=
  ⟨h.stateReg, h.line, h.flags, h.tmr, h.dma0, h.dma1, h.fb, h.frm, h.stream0, h.stream1⟩

theorem Preparing.dormant {s : State} (h : Preparing s) : Dormant s :=
  dormant_of_reset_values h.tmr h.frm h.dma0 h.dma1

theorem Preparing.fbValid {s : State} (h : Preparing s) : s.fbValid = false := by
  rw [State.fbValid, h.fb]; rfl

/-- The writes of the mode, SHIFT, the PLL and the number of the next draw, and what PLL and CACHE do in a gap. -/
theorem Preparing.write {s : State} (h : Preparing s) (mode : VideoMode) (shift : Word) (pll : Pll) (mem cache : Memory)
    (draws : Nat) (gaps : List (List Turn)) :
    Preparing { s with
      mode := mode, shift := shift, pll := pll, mem := mem, cache := cache, draws := draws, gaps := gaps } :=
  ⟨h.stateReg, h.line, h.flags, h.tmr, h.dma0, h.dma1, h.fb, h.frm, h.stream0, h.stream1⟩

theorem Preparing.gap {C : Config} {s t : State} (hs : Preparing s) (h : gap C s = .next t) : Preparing t := by
  obtain ⟨pll, mem, cache, gaps, rfl, -⟩ := hs.dormant.gap h
  exact hs.write s.mode s.shift pll mem cache s.draws gaps

/-- Writes of the PLL's registers, with their gaps. -/
theorem Preparing.of_pllWrites {C : Config} (fs : List (State → Flow State)) :
    ∀ {s t : State}, (∀ f ∈ fs, ∀ x, ∃ pll, f x = .next { x with pll := pll }) → Preparing s →
      inOrder C fs s = .next t → Preparing t := by
  induction fs with
  | nil => intro s t _ hs h; cases h; exact hs
  | cons f fs ih =>
    intro s t hfs hs h
    obtain ⟨pll, hf⟩ := hfs f List.mem_cons_self s
    obtain ⟨u, hgap, hrest⟩ := inOrder_cons_eq_next hf h
    have hwritten := hs.write s.mode s.shift pll s.mem s.cache s.draws s.gaps
    exact ih (fun g hg => hfs g (List.mem_cons_of_mem _ hg)) (hwritten.gap hgap) hrest

theorem Preparing.pollLock {C : Config} (n : Nat) :
    ∀ {s : State} {r : Bool × State}, Preparing s → pollLock C n s = .next r → Preparing r.2 := by
  induction n with
  | zero => intro s r hs h; cases h; exact hs
  | succ n ih =>
    intro s r hs h
    simp only [Machine.pollLock] at h
    split at h
    · cases h; exact hs
    · obtain ⟨u, hgap, hrest⟩ := andThen_eq_next h
      exact ih (hs.gap hgap) hrest

theorem Preparing.programClock {C : Config} {target : Nat} {s : State} {r : Bool × State} (hs : Preparing s)
    (h : programClock C target s = .next r) : Preparing r.2 := by
  obtain ⟨s1, hwrites, hpoll⟩ := andThen_eq_next h
  have hs1 : Preparing s1 := by
    refine Preparing.of_pllWrites _ (fun f hf x => ?_) hs hwrites
    simp only [writeClockProgram, List.mem_cons, List.not_mem_nil, or_false] at hf
    obtain rfl | rfl | rfl | rfl | rfl := hf <;> exact ⟨_, rfl⟩
  have hdrawn : Preparing (drawLock C s1) := hs1.write s1.mode s1.shift _ s1.mem s1.cache (s1.draws + 1) s1.gaps
  exact hdrawn.pollLock _ hpoll

/-! ## The rollback (R222) -/

/-- Once the PLL is off, a step of the rollback is followed by CACHE alone. -/
theorem Preparing.inOrder_cons_of_off {C : Config} {f : State → Flow State} {fs : List (State → Flow State)}
    {s u t : State} (hu : Preparing u) (hoff : u.pll = Pll.off) (hf : f s = .next u)
    (h : inOrder C (f :: fs) s = .next t) :
    ∃ v, Preparing v ∧ v.pll = Pll.off ∧ v.mode = u.mode ∧ v.shift = u.shift ∧ v.result0 = u.result0
      ∧ inOrder C fs v = .next t := by
  obtain ⟨mem, cache, gaps, hrest⟩ := hu.dormant.inOrder_cons_of_off hoff hf h
  exact ⟨_, hu.write u.mode u.shift Pll.off mem cache u.draws gaps, rfl, rfl, rfl, rfl, hrest⟩

/-- A rollback that is not abandoned leaves the reset values, whatever the schedule does in its gaps. -/
theorem Preparing.failBegin {C : Config} {code : Word} {s t : State} (hs : Preparing s)
    (h : failBegin C code s = .next t) : RegistersAtReset t ∧ t.result1 = 0 ∧ t.result0 = code := by
  have hresult1 := (failBegin_eq_next h).2
  have hdisarm : disarm s = s := disarm_of_idle hs.dma0 hs.dma1 hs.frm hs.stream0 hs.stream1
  obtain ⟨s1, hgap, h⟩ := inOrder_cons_eq_next (congrArg Flow.next hdisarm) h
  have hs1 := hs.gap hgap
  have hoff : Preparing (pllOff s1) := hs1.write s1.mode s1.shift Pll.off s1.mem s1.cache s1.draws s1.gaps
  obtain ⟨s2, hs2, hpll2, -, -, -, h⟩ := hoff.inOrder_cons_of_off rfl rfl h
  obtain ⟨s3, hs3, hpll3, -, -, -, h⟩ :=
    hs2.inOrder_cons_of_off hpll2 (if_neg (Bool.eq_false_iff.1 hs2.fbValid)) h
  have hcleared : Preparing (clearMode s3) := hs3.write VideoMode.zero 0 s3.pll s3.mem s3.cache s3.draws s3.gaps
  obtain ⟨s4, hs4, hpll4, hmode4, hshift4, -, h⟩ := hcleared.inOrder_cons_of_off hpll3 rfl h
  obtain ⟨s5, hs5, hpll5, hmode5, hshift5, -, h⟩ := Preparing.inOrder_cons_of_off (u := clearDescriptors s4)
    ⟨hs4.stateReg, hs4.line, hs4.flags, hs4.tmr, rfl, rfl, hs4.fb, hs4.frm, hs4.stream0, hs4.stream1⟩ hpll4 rfl h
  obtain ⟨s6, hs6, hpll6, hmode6, hshift6, hresult0, h⟩ := Preparing.inOrder_cons_of_off (u := reportFailure code s5)
    ⟨hs5.stateReg, hs5.line, hs5.flags, hs5.tmr, hs5.dma0, hs5.dma1, hs5.fb, hs5.frm, hs5.stream0, hs5.stream1⟩ hpll5
    rfl h
  cases h
  exact ⟨⟨hs6.stateReg, hs6.line, hs6.flags, hmode6.trans (hmode5.trans hmode4), hshift6.trans (hshift5.trans hshift4),
    hpll6, hs6.tmr, hs6.dma0, hs6.dma1, hs6.fb, hs6.frm, hs6.stream0, hs6.stream1⟩, hresult1, hresult0⟩

/-! ## The whole of BEGIN -/

/-- What a BEGIN that has failed leaves: the reset values, RESULT1 = 0, and an error code in RESULT0 (R222, R250). -/
structure BeginFailed (t : State) : Prop where
  registers : RegistersAtReset t
  result1 : t.result1 = 0
  code : t.result0 = 1 ∨ t.result0 = 2 ∨ t.result0 = 3

/-- R221 step 4 and what follows: BEGIN ends RUNNING, or is rolled back. -/
theorem Preparing.beginBuffer {C : Config} {s t : State} (hs : Preparing s) (h : beginBuffer C s = .next t) :
    t.stateReg = 1 ∨ BeginFailed t := by
  obtain hdrawn | ⟨a, -, -, hgranted⟩ := allocate_cases C s
  · have hdrawn' : Preparing (allocate C s) := by
      rw [hdrawn]; exact hs.write s.mode s.shift s.pll s.mem s.cache (s.draws + 1) s.gaps
    simp only [Machine.beginBuffer, hs.fbValid, hdrawn'.fbValid, Bool.false_eq_true, if_false] at h
    obtain ⟨u, hgap, hfail⟩ := andThen_eq_next h
    obtain ⟨hregisters, hresult1, hcode⟩ := (hdrawn'.gap hgap).failBegin hfail
    exact .inr ⟨hregisters, hresult1, .inl hcode⟩
  · have hvalid : (allocate C s).fbValid = true := by rw [hgranted]; exact getFlag_setFlag_same _ 0 true (by decide)
    simp only [Machine.beginBuffer, hs.fbValid, hvalid, Bool.false_eq_true, if_false, if_true] at h
    obtain ⟨u, -, hfinish⟩ := andThen_eq_next h
    exact .inl (finishBegin_eq_next hfinish).1

/-- R221 steps 2 to 8: BEGIN ends RUNNING, or is rolled back. -/
theorem RegistersAtReset.beginWith {C : Config} {m : ResolvedMode} {s t : State} (hs : RegistersAtReset s)
    (h : beginWith C m s = .next t) : t.stateReg = 1 ∨ BeginFailed t := by
  obtain ⟨s2, hgap2, h⟩ := andThen_eq_next h
  obtain ⟨r, hclock, h⟩ := andThen_eq_next h
  obtain ⟨s3, hgap3, h⟩ := andThen_eq_next h
  have hloaded : Preparing (loadMode C m s) :=
    hs.preparing.write (m.registers C) (BitVec.ofNat 32 m.shift0) s.pll s.mem s.cache s.draws s.gaps
  have hs3 : Preparing s3 := ((hloaded.gap hgap2).programClock hclock).gap hgap3
  split at h
  · exact hs3.beginBuffer h
  · obtain ⟨hregisters, hresult1, hcode⟩ := hs3.failBegin h
    exact .inr ⟨hregisters, hresult1, .inr (.inr hcode)⟩

/-- A mode that BEGIN refuses is reported and nothing else written (R221 step 1). -/
theorem RegistersAtReset.reportFailure {s : State} (hs : RegistersAtReset s) :
    BeginFailed (reportFailure codeModeUnsupported s) :=
  ⟨⟨hs.stateReg, hs.line, hs.flags, hs.mode, hs.shift, hs.pll, hs.tmr, hs.dma0, hs.dma1, hs.fb, hs.frm, hs.stream0,
    hs.stream1⟩, rfl, .inr (.inl rfl)⟩

/-- From the reset values BEGIN ends RUNNING, or has failed, or a RESET event in its gaps abandoned it (R280). -/
theorem RegistersAtReset.beginMode {C : Config} {mode : Byte} {s t : State} (hs : RegistersAtReset s)
    (h : beginMode C mode s = .next t) : t.stateReg = 1 ∨ BeginFailed t ∨ (¬ s.noReset ∧ ∃ u, t = resetEvent u) := by
  cases hm : resolveMode C mode with
  | none =>
    rw [beginMode_of_unresolved hs.idle hm] at h
    cases h
    exact .inr (.inl hs.reportFailure)
  | some m =>
    by_cases htarget : clockTarget C m < 2 ^ 32
    · rw [beginMode_of_resolved hs.idle hm htarget] at h
      have hperforms := (shown_writeRel C (writeClasses (.beginMode mode))).beginWith (by simp) (by simp)
        (fun _ hk => .tail _ (.tail _ hk)) hm s
      obtain hend | ⟨hreset, u, -, hu⟩ := hperforms.settle_eq_next h
      · exact (hs.beginWith hend).imp_right .inl
      · exact .inr (.inr ⟨hreset, u, hu⟩)
    · rw [beginMode_of_large_target hs.idle hm htarget] at h
      cases h
      exact .inr (.inl hs.reportFailure)

/-- Settles O49: with nothing interposed by the rollback's own state; for every schedule because the block is dormant
until BEGIN succeeds, and RESET leaves the reset values too. -/
theorem beginFailureLeavesNothing : Obligations.BeginFailureLeavesNothing := by
  unfold Obligations.BeginFailureLeavesNothing
  refine ⟨fun C mode s t _ hs hquiet hcode h => beginMode_quiet_failure hs hquiet hcode h,
    fun C mode s t hs h hstopped => ?_⟩
  obtain hrunning | hfailed | ⟨hreset, u, rfl⟩ := hs.beginMode h
  · rw [running_of_stateReg_one hrunning] at hstopped
    cases hstopped
  · exact ⟨hfailed.registers, hfailed.result1, fun _ => hfailed.code⟩
  · exact ⟨registersAtReset_resetEvent u, rfl, fun hnone => absurd hnone hreset⟩

end Sys2Proof.Machine
end

section
/-! The RESET event (spec/70_reset_and_hazards.md R280). The first sub-step of a LINE_TICK or a BEGIN writes only what
RESET resets, so a RESET in the gap after it leaves what a RESET before the operation would have left. -/

namespace Sys2Proof.Machine

/-! ## What RESET leaves -/

theorem memByte_resetEvent (C : Config) (s : State) (a : Nat) : memByte C (resetEvent s) a = memByte C s a :=
  memByte_congr (resetEvent_mem s) (resetEvent_epoch s) a

/-- R280, log 14: the block is reset but for `MEM`, and what lies outside the block stays. -/
theorem resetEvent_effect (s : State) :
    RegistersAtReset (resetEvent s) ∧ (resetEvent s).result0 = 0 ∧ (resetEvent s).result1 = 0 ∧ (resetEvent s).cache = []
      ∧ (resetEvent s).pending = none ∧ (∀ (C : Config) (a : Nat), memByte C (resetEvent s) a = memByte C s a)
      ∧ (resetEvent s).cmd = s.cmd ∧ (resetEvent s).data = s.data ∧ (resetEvent s).draws = s.draws
      ∧ (resetEvent s).shown = s.shown :=
  ⟨registersAtReset_resetEvent s, resetEvent_result0 s, resetEvent_result1 s, resetEvent_cache s, resetEvent_pending s,
    fun C a => memByte_resetEvent C s a, resetEvent_cmd s, resetEvent_data s, resetEvent_draws s, resetEvent_shown s⟩

/-! ## Where RESET acts -/

theorem step_of_reset_slot {s : State} {rest : List Slot} (hagenda : s.agenda = .reset :: rest) :
    step s = .next (resetEvent { s with agenda := rest }) := by
  simp only [step, nextMove, hagenda]

section
variable {C : Config} {s : State} {turns : List Turn} {rest : List (List Turn)}

/-- A RESET at the head of a gap abandons the operation before any other turn of the gap is taken. -/
theorem gap_of_reset (hgaps : s.gaps = (.reset :: turns) :: rest) :
    gap C s = .abandoned (resetEvent { s with gaps := rest }) := by
  simp only [gap, gapWithout, gapTurns, hgaps, takeTurns, takeTurn, andThen_abandoned]

/-- A RESET in the gap after the first sub-step leaves what that sub-step led to, reset. -/
theorem inOrder_assign_of_reset {f : State → State} {fs : List (State → Flow State)}
    (hgaps : (f s).gaps = (.reset :: turns) :: rest) :
    inOrder C (assign f :: fs) s = .abandoned (resetEvent { f s with gaps := rest }) := by
  rw [inOrder_cons, assign_eq, andThen_next, gap_of_reset hgaps, andThen_abandoned]

/-- LINE_TICK's step 0 sets the mask (R195), which RESET clears. -/
theorem tickSteps_of_reset (hgaps : s.gaps = (.reset :: turns) :: rest) :
    inOrder C (tickSteps C) s = .abandoned (resetEvent { s with gaps := rest }) :=
  inOrder_assign_of_reset (f := takeLineInterrupt) hgaps

/-- BEGIN's step 2 loads the mode and SHIFT (R221), which RESET clears. -/
theorem beginWith_of_reset (m : ResolvedMode) (hgaps : s.gaps = (.reset :: turns) :: rest) :
    beginWith C m s = .abandoned (resetEvent { s with gaps := rest }) := by
  have hgap : gap C (loadMode C m s) = .abandoned (resetEvent { s with gaps := rest }) := gap_of_reset hgaps
  rw [beginWith, hgap, andThen_abandoned]

end

/-- Settles O9: as a move and in the first gap alike, what is left is `resetEvent` of the state before, with the one slot
or the one gap used up. The obligation's own name in lower case is the model's function. -/
theorem resetEvent_holds : Obligations.ResetEvent := by
  unfold Obligations.ResetEvent
  refine ⟨fun s rest hagenda => ?_, fun s turns rest hgaps hrunning hirq hmask htotal => ?_,
    fun C mode m s turns rest hgaps hidle hm htarget => ?_⟩
  · exact ⟨_, step_of_reset_slot hagenda, resetEvent_effect { s with agenda := rest }, rfl, rfl⟩
  · have henabled : s.tickEnabled = true := s.tickEnabled_iff.mpr ⟨hrunning, hirq, hmask⟩
    have htick : exec .lineTick s = .next (resetEvent { s with gaps := rest }) := by
      rw [exec_lineTick_of_enabled henabled htotal, tickSteps_of_reset hgaps, settle_abandoned]
    exact ⟨_, htick, resetEvent_effect { s with gaps := rest }, rfl, rfl⟩
  · have hbegin : beginMode C mode s = .next (resetEvent { s with gaps := rest }) := by
      rw [beginMode_of_resolved hidle hm htarget, beginWith_of_reset m hgaps, settle_abandoned]
    exact ⟨_, hbegin, fun hchip => by subst hchip; exact hbegin, resetEvent_effect { s with gaps := rest }, rfl, rfl⟩

end Sys2Proof.Machine
end
